-- ==== Sys2Proof/Word.lean ====
section
/-! DEFINITION. The two word types of the GFRS core: a 32-bit port word and an 8-bit field element. -/

namespace Sys2Proof

/-- A value of a 32-bit register-port location, and a command word (R24, R90). -/
abbrev Word := BitVec 32

/-- A field element of GF(2^8), and one byte of shard memory (R120, R62). -/
abbrev Byte := BitVec 8

end Sys2Proof
end

