-- ==== Sys2Proof/Config.lean ====
section
/-! DEFINITION. The parameters of the GFRS core (R6) and the model's free values. -/

namespace Sys2Proof

/-- `ELEM_BITS` (R6): the width of a field element, the width of `Byte`. -/
abbrev Config.elemBits : Nat := 8

/-- `XLEN` (R6): the width of a port register and of a memory address, the width of `Word`. -/
abbrev Config.xlen : Nat := 32

/-- `NX` (R6): the number of scalar registers. -/
abbrev Config.nX : Nat := 16

/-- `NMAT` (R6): the number of general matrix registers. -/
abbrev Config.nMat : Nat := 4

/-- `POLY` (R6, R123): the field's reduction polynomial, bit `i` the coefficient of `t^i`. -/
abbrev Config.poly : Nat := 0x11D

/-- `POLY[7:0]`, what the reduction step of R122 adds. -/
abbrev Config.polyLow : Byte := BitVec.ofNat 8 Config.poly

/-- `GEN` (R6, R123): the generator whose powers fill `EXP`. -/
abbrev Config.gen : Byte := 0x02

/-- `FIELD_SIZE` (R6): the number of field elements, the bound on `k + m` in R194. -/
abbrev Config.fieldSize : Nat := 256

/-- `MAXDIM` (R6): the largest row count and the largest column count of a matrix. -/
abbrev Config.maxDim : Nat := 256

/-- `NSHARD` (R6): entries of the shard descriptor table and of `SEL`. -/
abbrev Config.nShard : Nat := 256

/-- The size of shard memory in bytes, `2^XLEN` (R6, R60). -/
abbrev Config.memSize : Nat := 4294967296

/-- The size of the register window in bytes (R24). -/
abbrev Config.windowSize : Nat := 0x2000

/-- `NUNITS` (R6): the number of coding-loop execution units. -/
abbrev Config.nUnits : Nat := 12

/-- `BASE` (R6, U11): the window's address in the host's address space. It is the platform's, no rule
depends on it, and it has no value here: the transactions of the model carry window offsets, as R281
and R282 do. -/
opaque Config.base : Nat

/-- FREE VALUE (log entry 4). `LOG[0]` does not exist and no rule reads it (R125); 93_implementation_defined.md U1
allows any value there, so it has none here. -/
opaque Config.logOfZero : Byte

end Sys2Proof
end

