-- ==== Sys2Proof/Syntax.lean ====
section
/-! DEFINITION. The eighteen commands of GFRS command set 1.0 (R93), one constructor each. -/

namespace Sys2Proof

/-- A matrix source operand: index 0..3 names `m0..m3`, index 4 names `em` (R9, R91). -/
inductive MatSrc
  | m (i : Fin 4)
  | em
deriving DecidableEq, Repr

/-- The commands with their assembled operands (R93). Counts are the counts themselves, not the
"minus one" fields that encode them; `WellFormed` says which counts an encoding can hold. -/
inductive Instr
  /-- R284 -/
  | nop
  /-- R134 -/
  | gfadd (d a b : Fin 16)
  /-- R135 -/
  | gfmul (d a b : Fin 16)
  /-- R136 -/
  | gfmulx (d a b : Fin 16)
  /-- R137: `a` the dividend, `b` the divisor. -/
  | gfdiv (d a b : Fin 16)
  /-- R138 -/
  | gfinv (d a : Fin 16)
  /-- R139: the exponent is the register `N`. -/
  | gfexp (d a : Fin 16)
  /-- R166 -/
  | mload (d : Fin 4) (rows cols : Nat)
  /-- R167 -/
  | mstore (ms : MatSrc)
  /-- R168 -/
  | mmul (d : Fin 4) (ma mb : MatSrc)
  /-- R169 -/
  | msub (d : Fin 4) (ms : MatSrc) (n : Nat)
  /-- R170 -/
  | minv (d : Fin 4) (ms : MatSrc)
  /-- R194 -/
  | create (k m : Nat)
  /-- R211 -/
  | encode
  /-- R212 -/
  | verify
  /-- R213 -/
  | decode
  /-- R260 -/
  | code (ms : MatSrc) (nin nout : Nat)
  /-- R261 -/
  | check (ms : MatSrc) (nin nout : Nat)
deriving DecidableEq, Repr

end Sys2Proof
end

