-- ==== Sys2Proof/WellFormed.lean ====
section
/-! DEFINITION. Which instruction terms are commands an encoding can write down (R92, R93). -/

namespace Sys2Proof

/-- A count held as "value minus one" in an 8-bit field: 1..256 (R93). -/
def countOk (n : Nat) : Bool := decide (1 ≤ n) && decide (n ≤ 256)

/-- An unsigned 12-bit count: 0..4095 (R92). -/
def count12Ok (n : Nat) : Bool := decide (n ≤ 4095)

/-- The operand ranges of R93. Register operands are in range by their types: every 4-bit scalar index
names a register, a destination matrix is 0..3, a source matrix 0..4 (R96). -/
def wellFormed : Instr → Bool
  | .nop => true
  | .gfadd _ _ _ => true
  | .gfmul _ _ _ => true
  | .gfmulx _ _ _ => true
  | .gfdiv _ _ _ => true
  | .gfinv _ _ => true
  | .gfexp _ _ => true
  | .mload _ rows cols => countOk rows && countOk cols
  | .mstore _ => true
  | .mmul _ _ _ => true
  | .msub _ _ n => countOk n
  | .minv _ _ => true
  | .create k m => count12Ok k && count12Ok m
  | .encode => true
  | .verify => true
  | .decode => true
  | .code _ nin nout => countOk nin && countOk nout
  | .check _ nin nout => countOk nin && countOk nout

end Sys2Proof
end

