-- ==== Sys2Proof/Decode.lean ====
section
/-! DEFINITION. Decoding a 32-bit command word (R90 to R96), the match and mask table of R95, and the encoder. -/

namespace Sys2Proof

/-! ### Fields (R91, R92), as unsigned numbers (R7) -/

/-- `op = w[31:24]`. -/
def fieldOp (w : Word) : Nat := w.toNat / 2 ^ 24

/-- `x = w[23:20]`. -/
def fieldX (w : Word) : Nat := w.toNat / 2 ^ 20 % 16

/-- `y = w[19:16]`. -/
def fieldY (w : Word) : Nat := w.toNat / 2 ^ 16 % 16

/-- `p = w[15:8]`. -/
def fieldP (w : Word) : Nat := w.toNat / 2 ^ 8 % 256

/-- `q = w[7:0]`. -/
def fieldQ (w : Word) : Nat := w.toNat % 256

/-- `q[7:4]`. -/
def fieldQHi (w : Word) : Nat := w.toNat / 2 ^ 4 % 16

/-- `q[3:0]`. -/
def fieldQLo (w : Word) : Nat := w.toNat % 16

/-- `k12 = w[23:12]`. -/
def fieldK12 (w : Word) : Nat := w.toNat / 2 ^ 12 % 4096

/-- `m12 = w[11:0]`. -/
def fieldM12 (w : Word) : Nat := w.toNat % 4096

/-! ### Opcodes -/

/-- The eighteen opcodes (R93). -/
inductive Opcode
  | nop | gfadd | gfmul | gfmulx | gfdiv | gfinv | gfexp
  | mload | mstore | mmul | msub | minv | create
  | encode | verify | decode | code | check
deriving DecidableEq, Repr

/-- The opcode byte of each command (R93). -/
def opcodeByte : Opcode → Nat
  | .nop => 0x00
  | .gfadd => 0x10
  | .gfmul => 0x11
  | .gfmulx => 0x12
  | .gfdiv => 0x13
  | .gfinv => 0x14
  | .gfexp => 0x15
  | .mload => 0x20
  | .mstore => 0x21
  | .mmul => 0x22
  | .msub => 0x23
  | .minv => 0x24
  | .create => 0x30
  | .encode => 0x40
  | .verify => 0x41
  | .decode => 0x42
  | .code => 0x50
  | .check => 0x51

/-- The opcodes in the order of R93's table. -/
def opcodes : List Opcode :=
  [.nop, .gfadd, .gfmul, .gfmulx, .gfdiv, .gfinv, .gfexp, .mload, .mstore,
   .mmul, .msub, .minv, .create, .encode, .verify, .decode, .code, .check]

/-- The command an opcode byte names, if it is one of the eighteen (R95: every other byte is illegal). -/
def opcodeOf (b : Nat) : Option Opcode := opcodes.find? fun c => opcodeByte c == b

/-! ### The decoder (R94) -/

/-- Why a word is illegal: the four cases of R96. All of them raise the one condition IllegalCommand,
and the machine records none of this. -/
inductive DecodeError
  /-- R96 (a): the opcode byte is not one of the eighteen. -/
  | unknownOpcode
  /-- R96 (b): a field the command does not use is not zero. -/
  | unusedFieldNotZero
  /-- R96 (c): a destination matrix index is 4 or more. -/
  | noSuchDestination
  /-- R96 (d): a matrix source index is 5 or more. -/
  | noSuchSource
deriving DecidableEq, Repr

/-- The unused fields of a command must be zero (R96 (b)). -/
def needZero (fields : List Nat) : Except DecodeError Unit :=
  if fields.all (· == 0) then .ok () else .error .unusedFieldNotZero

/-- A scalar register field: all sixteen values name a register (R96). -/
def scalarOf (f : Nat) : Fin 16 := Fin.ofNat 16 f

/-- A destination matrix field (R96 (c)). -/
def destOf (f : Nat) : Except DecodeError (Fin 4) :=
  if h : f < 4 then .ok ⟨f, h⟩ else .error .noSuchDestination

/-- A matrix source field: 0..3 for `m0..m3`, 4 for `em` (R91, R96 (d)). -/
def sourceOf (f : Nat) : Except DecodeError MatSrc :=
  if h : f < 4 then .ok (.m ⟨f, h⟩) else if f = 4 then .ok .em else .error .noSuchSource

/-- The three-register form of GFADD, GFMUL, GFMULX and GFDIV (R93). -/
def decode3 (mk : Fin 16 → Fin 16 → Fin 16 → Instr) (w : Word) : Except DecodeError Instr := do
  needZero [fieldP w, fieldQHi w]
  return mk (scalarOf (fieldX w)) (scalarOf (fieldY w)) (scalarOf (fieldQLo w))

/-- The two-register form of GFINV and GFEXP (R93). -/
def decode2 (mk : Fin 16 → Fin 16 → Instr) (w : Word) : Except DecodeError Instr := do
  needZero [fieldP w, fieldQ w]
  return mk (scalarOf (fieldX w)) (scalarOf (fieldY w))

/-- The form without operands of NOP, ENCODE, VERIFY and DECODE (R93). -/
def decode0 (i : Instr) (w : Word) : Except DecodeError Instr := do
  needZero [fieldX w, fieldY w, fieldP w, fieldQ w]
  return i

/-- The form of CODE and CHECK: a source and two counts (R93). -/
def decodeLoop (mk : MatSrc → Nat → Nat → Instr) (w : Word) : Except DecodeError Instr := do
  needZero [fieldX w]
  let ms ← sourceOf (fieldY w)
  return mk ms (fieldP w + 1) (fieldQ w + 1)

/-- The decoding procedure of R94: total, each word one command or rejected by name. -/
def decode (w : Word) : Except DecodeError Instr :=
  match opcodeOf (fieldOp w) with
  | none => .error .unknownOpcode
  | some .nop => decode0 .nop w
  | some .gfadd => decode3 .gfadd w
  | some .gfmul => decode3 .gfmul w
  | some .gfmulx => decode3 .gfmulx w
  | some .gfdiv => decode3 .gfdiv w
  | some .gfinv => decode2 .gfinv w
  | some .gfexp => decode2 .gfexp w
  | some .mload => do
      needZero [fieldY w]
      let d ← destOf (fieldX w)
      return .mload d (fieldP w + 1) (fieldQ w + 1)
  | some .mstore => do
      needZero [fieldX w, fieldP w, fieldQ w]
      let ms ← sourceOf (fieldY w)
      return .mstore ms
  | some .mmul => do
      needZero [fieldP w, fieldQHi w]
      let d ← destOf (fieldX w)
      let ma ← sourceOf (fieldY w)
      let mb ← sourceOf (fieldQLo w)
      return .mmul d ma mb
  | some .msub => do
      needZero [fieldP w]
      let d ← destOf (fieldX w)
      let ms ← sourceOf (fieldY w)
      return .msub d ms (fieldQ w + 1)
  | some .minv => do
      needZero [fieldP w, fieldQ w]
      let d ← destOf (fieldX w)
      let ms ← sourceOf (fieldY w)
      return .minv d ms
  | some .create => .ok (.create (fieldK12 w) (fieldM12 w))
  | some .encode => decode0 .encode w
  | some .verify => decode0 .verify w
  | some .decode => decode0 .decode w
  | some .code => decodeLoop .code w
  | some .check => decodeLoop .check w

/-- The decoder on a row of spec/opcode_table.json: `nbits` bits, bit 0 the least significant. A command
is one 32-bit number (R90), so there is no byte order to choose. -/
def decodeTableWord (nbits w : Nat) : Option Instr :=
  if nbits ≤ 32 then (decode (BitVec.ofNat 32 (w % 2 ^ nbits))).toOption else none

/-! ### The match and mask table (R95) -/

/-- One row of R95's second table; the two flags are its "further constraint" column. -/
structure OpcodeRow where
  opcode : Opcode
  pattern : Word
  mask : Word
  yAtMost4 : Bool := false
  qAtMost4 : Bool := false
deriving DecidableEq, Repr

/-- A word is a candidate when `w & mask = match`; a decoder applies the constraint after it (R95). -/
def rowAccepts (r : OpcodeRow) (w : Word) : Bool :=
  (w &&& r.mask == r.pattern) && (!r.yAtMost4 || decide (fieldY w ≤ 4)) && (!r.qAtMost4 || decide (fieldQ w ≤ 4))

/-- R95, row by row. -/
def opcodeTable : List OpcodeRow :=
  [ { opcode := .nop,    pattern := 0x00000000, mask := 0xFFFFFFFF },
    { opcode := .gfadd,  pattern := 0x10000000, mask := 0xFF00FFF0 },
    { opcode := .gfmul,  pattern := 0x11000000, mask := 0xFF00FFF0 },
    { opcode := .gfmulx, pattern := 0x12000000, mask := 0xFF00FFF0 },
    { opcode := .gfdiv,  pattern := 0x13000000, mask := 0xFF00FFF0 },
    { opcode := .gfinv,  pattern := 0x14000000, mask := 0xFF00FFFF },
    { opcode := .gfexp,  pattern := 0x15000000, mask := 0xFF00FFFF },
    { opcode := .mload,  pattern := 0x20000000, mask := 0xFFCF0000 },
    { opcode := .mstore, pattern := 0x21000000, mask := 0xFFF8FFFF, yAtMost4 := true },
    { opcode := .mmul,   pattern := 0x22000000, mask := 0xFFC8FFF8, yAtMost4 := true, qAtMost4 := true },
    { opcode := .msub,   pattern := 0x23000000, mask := 0xFFC8FF00, yAtMost4 := true },
    { opcode := .minv,   pattern := 0x24000000, mask := 0xFFC8FFFF, yAtMost4 := true },
    { opcode := .create, pattern := 0x30000000, mask := 0xFF000000 },
    { opcode := .encode, pattern := 0x40000000, mask := 0xFFFFFFFF },
    { opcode := .verify, pattern := 0x41000000, mask := 0xFFFFFFFF },
    { opcode := .decode, pattern := 0x42000000, mask := 0xFFFFFFFF },
    { opcode := .code,   pattern := 0x50000000, mask := 0xFFF80000, yAtMost4 := true },
    { opcode := .check,  pattern := 0x51000000, mask := 0xFFF80000, yAtMost4 := true } ]

/-- The opcode of a command (R93). -/
def instrOpcode : Instr → Opcode
  | .nop => .nop
  | .gfadd _ _ _ => .gfadd
  | .gfmul _ _ _ => .gfmul
  | .gfmulx _ _ _ => .gfmulx
  | .gfdiv _ _ _ => .gfdiv
  | .gfinv _ _ => .gfinv
  | .gfexp _ _ => .gfexp
  | .mload _ _ _ => .mload
  | .mstore _ => .mstore
  | .mmul _ _ _ => .mmul
  | .msub _ _ _ => .msub
  | .minv _ _ => .minv
  | .create _ _ => .create
  | .encode => .encode
  | .verify => .verify
  | .decode => .decode
  | .code _ _ _ => .code
  | .check _ _ _ => .check

/-! ### The encoder (R98's "meaning" column) -/

/-- The number of a matrix source in an operand field (R91). -/
def sourceField : MatSrc → Nat
  | .m i => i.val
  | .em => 4

/-- A format R word (R91) as a number. -/
def formatR (op x y p q : Nat) : Nat := op * 2 ^ 24 + x * 2 ^ 20 + y * 2 ^ 16 + p * 2 ^ 8 + q

/-- A format K word (R92) as a number. -/
def formatK (op k12 m12 : Nat) : Nat := op * 2 ^ 24 + k12 * 2 ^ 12 + m12

/-- The number of a command's word (R98). -/
def encodeNat : Instr → Nat
  | .nop => 0x00000000
  | .gfadd d a b => formatR 0x10 d a 0 b
  | .gfmul d a b => formatR 0x11 d a 0 b
  | .gfmulx d a b => formatR 0x12 d a 0 b
  | .gfdiv d a b => formatR 0x13 d a 0 b
  | .gfinv d a => formatR 0x14 d a 0 0
  | .gfexp d a => formatR 0x15 d a 0 0
  | .mload d rows cols => formatR 0x20 d 0 (rows - 1) (cols - 1)
  | .mstore ms => formatR 0x21 0 (sourceField ms) 0 0
  | .mmul d ma mb => formatR 0x22 d (sourceField ma) 0 (sourceField mb)
  | .msub d ms n => formatR 0x23 d (sourceField ms) 0 (n - 1)
  | .minv d ms => formatR 0x24 d (sourceField ms) 0 0
  | .create k m => formatK 0x30 k m
  | .encode => 0x40000000
  | .verify => 0x41000000
  | .decode => 0x42000000
  | .code ms nin nout => formatR 0x50 0 (sourceField ms) (nin - 1) (nout - 1)
  | .check ms nin nout => formatR 0x51 0 (sourceField ms) (nin - 1) (nout - 1)

/-- The word of a well-formed command (R98). The pseudo-instruction `gfsub` (R99) is the word of GFADD and
has no term of its own. -/
def encode (i : Instr) : Word := BitVec.ofNat 32 (encodeNat i)

end Sys2Proof
end

