-- ==== Sys2Proof/Machine/State.lean ====
section
/-! DEFINITION. The state of one GFRS core instance (R20), of shard memory (R60) and of the host beside
it (R280), all plain data, and its value at reset (R42, R340). -/

namespace Sys2Proof.Machine

/-! ### Values held in registers -/

/-- A matrix value (R37, R160): a row count, a column count and the rows of elements, row 0 first. -/
structure Matrix where
  rows : Nat := 0
  cols : Nat := 0
  data : List (List Byte) := []
deriving DecidableEq, Repr

/-- `STATUS` (R23). Bits 31:5 are reserved, read 0 and are never written, so they are not held. -/
structure Status where
  /-- `ERR`, bits 2:0. -/
  err : BitVec 3 := 0
  /-- `FATAL`, bit 3. -/
  fatal : Bool := false
  /-- `MATCH`, bit 4. -/
  matched : Bool := false
deriving DecidableEq, Repr

/-- `CFG` (R26). Bits 31:17 read 0 and are not held. -/
structure Cfg where
  /-- `K`, bits 7:0. -/
  k : BitVec 8 := 0
  /-- `M`, bits 15:8. -/
  m : BitVec 8 := 0
  /-- `VALID`, bit 16. -/
  valid : Bool := false
deriving DecidableEq, Repr

/-- One entry of `SEL` (R32). Bits 31:24 read 0, are ignored on write and are not held. -/
structure SelEntry where
  /-- `IN`, bits 7:0. -/
  inp : Byte := 0
  /-- `OUT`, bits 15:8. -/
  out : Byte := 0
  /-- `ROW`, bits 23:16. -/
  row : Byte := 0
deriving DecidableEq, Repr

/-- One shard descriptor: `SHBASE[i]`, `SHLEN[i]` (R33) and `SHFLAG[i].PRESENT` (R34). -/
structure Descriptor where
  base : Word := 0
  len : Word := 0
  present : Bool := false
deriving DecidableEq, Repr

/-- The six conditions a command can raise (R300). -/
inductive Condition
  | invalidConfiguration
  | dimensionMismatch
  | insufficientShards
  | divideByZero
  | singular
  | illegalCommand
deriving DecidableEq, Repr

/-! ### The core instance, shard memory, the host -/

/-- The state of one core instance: every row of R20's table but the ROM tables, which are constants
(R39, R347; Machine/Field.lean). -/
structure CoreState where
  /-- `x0..x15` (R21). -/
  x : Vector Byte 16
  /-- `m0..m3` (R37). -/
  m : Vector Matrix 4
  /-- `em` (R38). -/
  em : Matrix
  /-- `STATUS` (R23). -/
  status : Status
  /-- `STRAT.UNIT` (R27): always one of the twelve unit numbers. -/
  strat : Fin 12
  /-- `N` (R28). -/
  n : Word
  /-- `OFF` (R29). -/
  off : Word
  /-- `CNT` (R29). -/
  cnt : Word
  /-- `MADDR` (R30). -/
  maddr : Word
  /-- `CFG` (R26). -/
  cfg : Cfg
  /-- `SEL[0..255]` (R32). -/
  sel : Vector SelEntry 256
  /-- `SHBASE`, `SHLEN`, `SHFLAG` `[0..255]` (R33, R34). -/
  shard : Vector Descriptor 256
deriving DecidableEq, Repr

/-- Shard memory (R60) in canonical form: addresses strictly rising, no entry equal to what an unlisted
address reads as. -/
abbrev Memory := List Host.Cell

/-- What the outside can do to the machine between two commands (R280 to R283, R340, R99). The model's
own type: the spec has the transactions, and lets a model hold a program as a list of them (R22). -/
inductive HostTxn
  /-- `HostWrite(off, v)` (R281); at offset 0 it presents the command word `v` (R283). -/
  | write (off : Nat) (v : Word)
  /-- `HostRead(off)` (R282). -/
  | read (off : Nat)
  /-- An access to the register window that is not 32 bits wide (R36, U2). -/
  | oddAccess (off bytes : Nat)
  /-- The host stores a byte to shard memory (R280; the directive `.poke` of R99). -/
  | memWrite (addr : Nat) (b : Byte)
  /-- The host loads a byte of shard memory (R280). -/
  | memRead (addr : Nat)
  /-- The platform's reset input (R340, R341). -/
  | reset
deriving DecidableEq, Repr

/-- The host beside the core. None of this is state of the core (R22): it is the model's bookkeeping. -/
structure HostSide where
  /-- The transactions the host will perform, next first. -/
  pending : List HostTxn := []
  /-- What the reads performed so far returned, latest first. -/
  replies : List Word := []
deriving DecidableEq, Repr

/-- The machine's state. -/
structure State where
  core : CoreState
  mem : Memory
  host : HostSide
deriving DecidableEq, Repr

/-! ### How a step can stop -/

/-- The faults of the model. No command ends in one: a condition of R300 is a next state. -/
inductive Fault
  /-- Raised by a host load or store of shard memory (`HostTxn.memRead`, `HostTxn.memWrite`) at an address
  of `2^32` or more, which does not exist (R60), and by a transaction at the window of a core instance that does
  not exist (Machine/System.lean). Safe: the machine stops where the spec gives nothing. -/
  | noSuchAddress
deriving DecidableEq, Repr

/-- The refusals of the model. -/
inductive Refusal
  /-- Raised by an arm of `exec` for an instruction without a meaning; no arm does. Safe. -/
  | notModelled (mnemonic : String)
  /-- Raised by a host access to the register window that is not an aligned 32-bit access inside
  `0 .. 0x1FFF`: R36 and U2 leave it unspecified and say that a model refuses it. Safe. -/
  | portAccessUnspecified
deriving DecidableEq, Repr

/-! ### Reset (R42, R340) -/

/-- The core instance after reset: every value is R340's. -/
def CoreState.reset : CoreState :=
  { x := Vector.replicate 16 0
    m := Vector.replicate 4 {}
    em := {}
    status := {}
    strat := 0
    n := 0
    off := 0
    cnt := 0
    maddr := 0
    cfg := {}
    sel := Vector.replicate 256 {}
    shard := Vector.replicate 256 {} }

/-- The machine right after reset: the core as R340 says, shard memory with nothing listed (log entry 1),
no host transaction pending (log entry 2). -/
def State.reset : State := { core := CoreState.reset, mem := [], host := {} }

end Sys2Proof.Machine
end

