-- ==== Sys2Proof/Machine/Matrix.lean ====
section
/-! DEFINITION. The pure matrix functions (R160 to R165) and the encoding-matrix construction (R190, R191). -/

namespace Sys2Proof.Machine

/-! ### Matrix values (R160) -/

/-- `A[r][c]`. -/
def matAt (A : Matrix) (r c : Nat) : Byte := (A.data.getD r []).getD c 0

/-- The `rows x cols` matrix with `f r c` in row `r`, column `c`. -/
def matOf (rows cols : Nat) (f : Nat → Nat → Byte) : Matrix :=
  { rows := rows, cols := cols, data := (List.range rows).map fun r => (List.range cols).map fun c => f r c }

/-- Either empty, or 1 to 256 rows of 1 to 256 elements, and no storage outside (R37). -/
abbrev Matrix.wf (A : Matrix) : Prop :=
  (A.rows = 0 ∧ A.cols = 0 ∧ A.data = []) ∨
  (1 ≤ A.rows ∧ A.rows ≤ Config.maxDim ∧ 1 ≤ A.cols ∧ A.cols ≤ Config.maxDim ∧
    A.data.length = A.rows ∧ ∀ row ∈ A.data, row.length = A.cols)

/-- `I_n` (R160). -/
def matId (n : Nat) : Matrix := matOf n n fun r c => if r = c then 1 else 0

/-- The row-major image of a matrix, one byte per element (R61). -/
def matImage (A : Matrix) : List Byte :=
  (List.range A.rows).flatMap fun r => (List.range A.cols).map fun c => matAt A r c

/-! ### Product and submatrix (R161, R162) -/

/-- `mat_mul(A, B)` (R161). -/
def matMul (A B : Matrix) : Except Condition Matrix :=
  if A.cols ≠ B.rows then .error .dimensionMismatch
  else .ok (matOf A.rows B.cols fun r c => xorSum A.cols fun i => gfMul (matAt A r i) (matAt B i c))

/-- `mat_sub(A, L)` (R162): the rows in the order of the list, repetitions allowed. -/
def matSub (A : Matrix) (L : List Nat) : Except Condition Matrix :=
  if L.length ≠ A.cols then .error .dimensionMismatch
  else if L.any fun r => decide (A.rows ≤ r) then .error .dimensionMismatch
  else .ok (matOf A.cols A.cols fun j c => matAt A (L.getD j 0) c)

/-! ### Inversion by Gaussian elimination (R163)

The work array `W` is a list of rows, each of `2n` elements. -/

/-- `W[row][j]`. -/
def workAt (W : List (List Byte)) (row j : Nat) : Byte := (W.getD row []).getD j 0

/-- `[ A | I_n ]`, the scratch copy (R163, R165). -/
def augment (A : Matrix) (n : Nat) : List (List Byte) :=
  (List.range n).map fun r =>
    ((List.range n).map fun c => matAt A r c) ++ ((List.range n).map fun c => matAt (matId n) r c)

/-- The first row at or below the diagonal with a nonzero entry in the column (R163). -/
def findPivot (W : List (List Byte)) (n col : Nat) : Option Nat :=
  ((List.range n).drop col).find? fun row => workAt W row col != 0

/-- Rows `i` and `j` exchanged (R163); nothing changes when they are the same row. -/
def swapRows (W : List (List Byte)) (i j : Nat) : List (List Byte) :=
  (W.set i (W.getD j [])).set j (W.getD i [])

/-- `row <- f * row`, element by element. -/
def scaleRow (f : Byte) (row : List Byte) : List Byte := row.map fun v => gfMul f v

/-- `row <- row ^ f * pivotRow`, where `f` is the row's own entry in the pivot column (R163). -/
def clearRow (pivotRow : List Byte) (col : Nat) (row : List Byte) : List Byte :=
  if row.getD col 0 = 0 then row
  else List.zipWith (fun a b => a ^^^ b) row (scaleRow (row.getD col 0) pivotRow)

/-- The body of R163's loop for one column: search, swap, scale, clear all other rows. Each row is cleared from itself
and the pivot row alone, so clearing them in one pass is clearing them one after another. -/
def eliminateColumn (n col : Nat) (W : List (List Byte)) : Except Condition (List (List Byte)) :=
  match findPivot W n col with
  | none => .error .singular
  | some piv =>
    let swapped := swapRows W piv col
    match gfInv (workAt swapped col col) with
    | .error e => .error e
    | .ok s =>
      let pivotRow := scaleRow s (swapped.getD col [])
      .ok (swapped.mapIdx fun row r => if row = col then pivotRow else clearRow pivotRow col r)

/-- R163's loop over the columns that are left. -/
def eliminate (n : Nat) (cols : List Nat) (W : List (List Byte)) : Except Condition (List (List Byte)) :=
  match cols with
  | [] => .ok W
  | col :: rest =>
    match eliminateColumn n col W with
    | .error e => .error e
    | .ok W' => eliminate n rest W'

/-- `mat_inv(A)` (R163): columns `n..2n-1` of the eliminated work array. -/
def matInv (A : Matrix) : Except Condition Matrix :=
  if A.rows ≠ A.cols then .error .dimensionMismatch
  else
    match eliminate A.rows (List.range A.rows) (augment A A.rows) with
    | .error e => .error e
    | .ok W => .ok (matOf A.rows A.rows fun r c => workAt W r (A.rows + c))

/-! ### The encoding matrix (R190, R191) -/

/-- `vandermonde(rows, cols)` (R190): `V[r][c] = gf_exp(r, c)`. -/
def vandermonde (rows cols : Nat) : Matrix := matOf rows cols fun r c => gfExp (BitVec.ofNat 8 r) c

/-- `build_em(k, m)` (R191). -/
def buildEm (k m : Nat) : Except Condition Matrix :=
  match matSub (vandermonde (k + m) k) (List.range k) with
  | .error e => .error e
  | .ok T =>
    match matInv T with
    | .error e => .error e
    | .ok Ti => matMul (vandermonde (k + m) k) Ti

end Sys2Proof.Machine
end

