-- ==== Sys2Proof/Machine/Flags.lean ====
section
/-! DEFINITION. `STATUS` and `CFG` (R23, R26): the condition codes, the field writes and the words the host reads. -/

namespace Sys2Proof.Machine

/-- The code of a condition in `STATUS.ERR` (R300). -/
def conditionCode : Condition → BitVec 3
  | .invalidConfiguration => 1
  | .dimensionMismatch => 2
  | .insufficientShards => 3
  | .divideByZero => 4
  | .singular => 5
  | .illegalCommand => 6

/-- `STATUS.ERR <- e`. -/
def State.setErr (s : State) (e : BitVec 3) : State := { s with core.status.err := e }

/-- `STATUS.FATAL <- 1`. -/
def State.setFatal (s : State) : State := { s with core.status.fatal := true }

/-- `STATUS.MATCH <- b`. -/
def State.setMatch (s : State) (b : Bool) : State := { s with core.status.matched := b }

/-- `STATUS` as the host reads it (R23): bits 31:5 are 0. -/
def statusWord (t : Status) : Word :=
  t.err.setWidth 32 ||| ((BitVec.ofBool t.fatal).setWidth 32 <<< 3) ||| ((BitVec.ofBool t.matched).setWidth 32 <<< 4)

/-- `CFG` as the host reads it (R26): bits 31:17 are 0. -/
def cfgWord (c : Cfg) : Word :=
  c.k.setWidth 32 ||| (c.m.setWidth 32 <<< 8) ||| ((BitVec.ofBool c.valid).setWidth 32 <<< 16)

end Sys2Proof.Machine
end

