-- ==== Sys2Proof/Machine/Ops.lean ====
section
/-! DEFINITION. Shard memory (R60 to R67), completing and raising (R10, R300, R301). -/

namespace Sys2Proof.Machine

/-! ### Shard memory -/

/-- What an address that memory does not list reads as. DESIGN CHOICE, unsafe (log entry 1): the spec leaves the contents
at launch to the platform (R42); the programs of 95_test_vectors.md section 8 start from memory all 0x00. -/
def memUnlisted : Byte := 0

/-- `MemRead(addr, 1)` (R9, R60): the byte most recently written there. It has no side effect. -/
def Memory.read (mem : Memory) (addr : Nat) : Byte :=
  match mem with
  | [] => memUnlisted
  | (a, b) :: rest => if a = addr then b else Memory.read rest addr

/-- `MemWrite(addr, 1, v)` (R9, R60): that byte changes and nothing else. It keeps the canonical form. -/
def Memory.write (mem : Memory) (addr : Nat) (v : Byte) : Memory :=
  match mem with
  | [] => if v = memUnlisted then [] else [(addr, v)]
  | (a, b) :: rest =>
    if addr < a then
      if v = memUnlisted then (a, b) :: rest else (addr, v) :: (a, b) :: rest
    else if addr = a then
      if v = memUnlisted then rest else (addr, v) :: rest
    else (a, b) :: Memory.write rest addr v

/-- The canonical form: addresses strictly rising, below `2^32` (R60), no entry that reads as an unlisted
address does. -/
abbrev Memory.wf (mem : Memory) : Prop :=
  mem.Pairwise (fun c d => c.1 < d.1) ∧ ∀ c ∈ mem, c.1 < Config.memSize ∧ c.2 ≠ memUnlisted

/-- Bytes stored one after another at ascending addresses (R67, R167). -/
def Memory.writeBytes (mem : Memory) (addr : Nat) (bytes : List Byte) : Memory :=
  match bytes with
  | [] => mem
  | b :: rest => Memory.writeBytes (mem.write addr b) (addr + 1) rest

/-- The state with its shard memory replaced. -/
def State.setMem (s : State) (mem : Memory) : State := { s with mem := mem }

/-! ### The end of a command -/

/-- A command completes (R10, R283): `STATUS.ERR <- 0`. -/
def complete (s : State) : Host.Outcome State Fault Refusal := .next (s.setErr 0)

/-- What a raise leaves (R301): `STATUS.ERR` receives the condition's code, a Singular raised inside CREATE or
DECODE (`internal`) also sets `STATUS.FATAL`, and nothing else changes. -/
def raised (internal : Bool) (c : Condition) (s : State) : State :=
  if internal && c == .singular then (s.setErr (conditionCode c)).setFatal else s.setErr (conditionCode c)

/-- `raise c` (R9, R301). There is no handler and no return from one (R305, R306): a raise is a next state. -/
def raise (internal : Bool) (c : Condition) (s : State) : Host.Outcome State Fault Refusal :=
  .next (raised internal c s)

end Sys2Proof.Machine
end

