-- ==== Sys2Proof/Machine/Operands.lean ====
section
/-! DEFINITION. The operands of the commands: scalar and matrix registers, selectors, descriptors, the window. -/

namespace Sys2Proof.Machine

/-! ### Scalar registers (R21): none is hardwired -/

/-- `x[i]`. -/
def State.readX (s : State) (i : Fin 16) : Byte := s.core.x[i]

/-- `x[i] <- v`. -/
def State.writeX (s : State) (i : Fin 16) (v : Byte) : State := { s with core.x := s.core.x.set i v }

/-! ### Matrix registers (R37, R38) -/

/-- `mat(s)` (R9). -/
def State.mat (s : State) (ms : MatSrc) : Matrix :=
  match ms with
  | .m i => s.core.m[i]
  | .em => s.core.em

/-- `m[i] <- A`: a matrix register is written as a whole (R37). -/
def State.writeM (s : State) (i : Fin 4) (A : Matrix) : State := { s with core.m := s.core.m.set i A }

/-- The common source check (R171): an empty register used as a source. -/
def isEmptyMatrix (A : Matrix) : Bool := A.rows == 0

/-- A completing CREATE writes `em` and all three fields of `CFG` together (R26, R38, R194). -/
def State.writeCodec (s : State) (k m : Nat) (E : Matrix) : State :=
  { s with core.em := E, core.cfg := { k := BitVec.ofNat 8 k, m := BitVec.ofNat 8 m, valid := true } }

/-! ### Selectors and descriptors (R32 to R34), by number -/

/-- `SEL[j]`, for `j` in 0..255. -/
def State.selAt (s : State) (j : Nat) : SelEntry := (s.core.sel[j]?).getD {}

/-- Descriptor `i`, for `i` in 0..255. -/
def State.shardAt (s : State) (i : Nat) : Descriptor := (s.core.shard[i]?).getD {}

/-- `SHBASE[i]` as a number (R7: address arithmetic never wraps). -/
def State.shBase (s : State) (i : Nat) : Nat := (s.shardAt i).base.toNat

/-- `SHLEN[i]` as a number. -/
def State.shLen (s : State) (i : Nat) : Nat := (s.shardAt i).len.toNat

/-- `[SEL[0].ROW, ..., SEL[n-1].ROW]` (R169, R259). -/
def State.selRows (s : State) (n : Nat) : List Nat := (List.range n).map fun j => (s.selAt j).row.toNat

/-- `SHBASE[SEL[i].IN]` for `i` in 0..nin-1 (R259). -/
def State.selIns (s : State) (nin : Nat) : List Nat :=
  (List.range nin).map fun i => s.shBase (s.selAt i).inp.toNat

/-- `SHBASE[SEL[o].OUT]` for `o` in 0..nout-1 (R259). -/
def State.selOuts (s : State) (nout : Nat) : List Nat :=
  (List.range nout).map fun o => s.shBase (s.selAt o).out.toNat

/-! ### The window, the image address, the configuration -/

/-- `OFF` as a number. -/
def State.offset (s : State) : Nat := s.core.off.toNat

/-- `CNT` as a number. -/
def State.count (s : State) : Nat := s.core.cnt.toNat

/-- `MADDR` as a number. -/
def State.imageBase (s : State) : Nat := s.core.maddr.toNat

/-- `CFG.K` as a number. -/
def State.dataCount (s : State) : Nat := s.core.cfg.k.toNat

/-- `n = CFG.K + CFG.M` (43_codec_ops.md). -/
def State.shardCount (s : State) : Nat := s.core.cfg.k.toNat + s.core.cfg.m.toNat

end Sys2Proof.Machine
end

