-- ==== Sys2Proof/Machine/CodingLoop.lean ====
section
/-! DEFINITION. The coding-loop datapath (R240 to R258): what is computed, the twelve execution units as loop
nests over shard memory, their access sequences, and the check companion. -/

namespace Sys2Proof.Machine

/-! ### The arguments of a call (R241) -/

/-- The arguments of `RunCode` and `RunCheck` but for the unit: `nin` is the number of `ins`, `nout` the number of `outs`. -/
structure CodeCall where
  mx : Matrix
  rows : List Nat
  ins : List Nat
  outs : List Nat
  off : Nat
  cnt : Nat
deriving DecidableEq, Repr

/-- The coefficient `Mx[rows[o]][i]`. -/
def coeff (c : CodeCall) (o i : Nat) : Byte := matAt c.mx (c.rows.getD o 0) i

/-- The address `ins[i] + off + p`. -/
def inAddr (c : CodeCall) (i p : Nat) : Nat := c.ins.getD i 0 + c.off + p

/-- The address `outs[o] + off + p`. -/
def outAddr (c : CodeCall) (o p : Nat) : Nat := c.outs.getD o 0 + c.off + p

/-- The coded byte (R240). -/
def coded (c : CodeCall) (mem : Memory) (o p : Nat) : Byte :=
  xorSum c.ins.length fun i => gfMul (coeff c o i) (mem.read (inAddr c i p))

/-! ### Unit numbers (R242): `u = 2 * order + method` -/

/-- The six loop orders, outermost loop first: B byte position, I input, O output. -/
inductive LoopOrder
  | bio | boi | ibo | iob | obi | oib
deriving DecidableEq, Repr

/-- The loop order of a unit. -/
def unitOrder (u : Fin 12) : LoopOrder :=
  match u.val / 2 with
  | 0 => .bio
  | 1 => .boi
  | 2 => .ibo
  | 3 => .iob
  | 4 => .obi
  | _ => .oib

/-- The multiplication method of a unit: even units use the product table, odd ones the log and exponent tables. -/
def unitMul (u : Fin 12) : Byte → Byte → Byte := if u.val % 2 = 0 then mulT else mulX

/-! ### The two steps (R243, R244) -/

/-- One iteration of a unit's loop nest. -/
inductive LoopStep
  /-- `step_rmw(i, o, p)` (R243). -/
  | rmw (i o p : Nat)
  /-- `step_acc(o, p)` (R244). -/
  | acc (o p : Nat)
deriving DecidableEq, Repr

/-- The iterations of a loop nest in order, the outermost loop first (R245, R247, R249, R251, R253, R255). -/
def schedule (order : LoopOrder) (nin nout cnt : Nat) : List LoopStep :=
  match order with
  | .bio => (List.range cnt).flatMap fun p => (List.range nin).flatMap fun i => (List.range nout).map fun o => .rmw i o p
  | .boi => (List.range cnt).flatMap fun p => (List.range nout).map fun o => .acc o p
  | .ibo => (List.range nin).flatMap fun i => (List.range cnt).flatMap fun p => (List.range nout).map fun o => .rmw i o p
  | .iob => (List.range nin).flatMap fun i => (List.range nout).flatMap fun o => (List.range cnt).map fun p => .rmw i o p
  | .obi => (List.range nout).flatMap fun o => (List.range cnt).map fun p => .acc o p
  | .oib => (List.range nout).flatMap fun o => (List.range nin).flatMap fun i => (List.range cnt).map fun p => .rmw i o p

/-- `step_rmw` (R243): input 0 sets the output byte, every later input is read first and then XORed into it. -/
def stepRmw (mul : Byte → Byte → Byte) (c : CodeCall) (mem : Memory) (i o p : Nat) : Memory :=
  let v := mul (coeff c o i) (mem.read (inAddr c i p))
  if i = 0 then mem.write (outAddr c o p) v
  else mem.write (outAddr c o p) (mem.read (outAddr c o p) ^^^ v)

/-- `step_acc` (R244): the sum is kept in an internal accumulator, the output byte is written once and never read. -/
def stepAcc (mul : Byte → Byte → Byte) (c : CodeCall) (mem : Memory) (o p : Nat) : Memory :=
  mem.write (outAddr c o p) (xorSum c.ins.length fun i => mul (coeff c o i) (mem.read (inAddr c i p)))

/-- One iteration on memory. -/
def runStep (mul : Byte → Byte → Byte) (c : CodeCall) (mem : Memory) : LoopStep → Memory
  | .rmw i o p => stepRmw mul c mem i o p
  | .acc o p => stepAcc mul c mem o p

/-- `RunCode(u, ...)` (R241, R245 to R256): the unit's loop nest, its accesses one at a time in exactly that order (R67). -/
def runCode (u : Fin 12) (c : CodeCall) (mem : Memory) : Memory :=
  (schedule (unitOrder u) c.ins.length c.outs.length c.cnt).foldl (runStep (unitMul u) c) mem

/-! ### The access sequences (R64, R243 to R256) -/

/-- One byte access to shard memory (R62). -/
inductive Access
  | read (addr : Nat)
  | write (addr : Nat)
deriving DecidableEq, Repr

/-- The accesses of one iteration, in order. -/
def stepAccesses (c : CodeCall) : LoopStep → List Access
  | .rmw i o p =>
    if i = 0 then [.read (inAddr c i p), .write (outAddr c o p)]
    else [.read (inAddr c i p), .read (outAddr c o p), .write (outAddr c o p)]
  | .acc o p => ((List.range c.ins.length).map fun i => .read (inAddr c i p)) ++ [.write (outAddr c o p)]

/-- The accesses of `RunCode(u, ...)`, in the order the unit performs them. -/
def runAccesses (u : Fin 12) (c : CodeCall) : List Access :=
  (schedule (unitOrder u) c.ins.length c.outs.length c.cnt).flatMap (stepAccesses c)

/-! ### The check companion (R258) -/

/-- `RunCheck(u, ...)` with the to-check buffers as `outs`: R258's formula. The unit cannot be observed through it. -/
def runCheck (_u : Fin 12) (c : CodeCall) (mem : Memory) : Bool :=
  (List.range c.outs.length).all fun o => (List.range c.cnt).all fun p =>
    coded c mem o p == mem.read (outAddr c o p)

/-! ### Overlap (R257) -/

/-- The byte ranges `[a + off, a + off + cnt)` and `[b + off, b + off + cnt)` share no address. -/
def windowsDisjoint (a b cnt : Nat) : Bool := decide (a + cnt ≤ b) || decide (b + cnt ≤ a) || cnt == 0

/-- The buffers of a call are non-overlapping (R257): no output window meets an input window or another output's. -/
def nonOverlapping (c : CodeCall) : Bool :=
  (c.outs.all fun a => c.ins.all fun b => windowsDisjoint a b c.cnt) &&
  (List.range c.outs.length).all fun o => (List.range c.outs.length).all fun o' =>
    o == o' || windowsDisjoint (c.outs.getD o 0) (c.outs.getD o' 0) c.cnt

end Sys2Proof.Machine
end

