-- ==== Sys2Proof/Machine/CodecCommands.lean ====
section
/-! DEFINITION. ENCODE, VERIFY and DECODE (R210 to R215). Throughout `k = CFG.K`, `m = CFG.M`, `n = k + m`. -/

namespace Sys2Proof.Machine

/-- The checks shared by the codec commands, in R210's order. -/
def codecCheck (s : State) : Option Condition :=
  if !s.core.cfg.valid then some .invalidConfiguration
  else if (List.range s.shardCount).any fun i => s.shLen i != s.shLen 0 then some .dimensionMismatch
  else if s.offset + s.count > s.shLen 0 then some .dimensionMismatch
  else if (List.range s.shardCount).any fun i => decide (s.shBase i + s.shLen 0 > Config.memSize) then
    some .dimensionMismatch
  else none

/-- The indices `k..n-1` of the parity shards, which are also the parity rows of `em`. -/
def parityIndices (s : State) : List Nat := (List.range s.shardCount).drop s.dataCount

/-- The multiply-accumulate of ENCODE, and the check of VERIFY: every parity row over the `k` data shards (R211, R212). -/
def parityCall (s : State) : CodeCall :=
  { mx := s.core.em
    rows := parityIndices s
    ins := (List.range s.dataCount).map s.shBase
    outs := (parityIndices s).map s.shBase
    off := s.offset
    cnt := s.count }

/-- ENCODE (R211). -/
def execEncode (s : State) : Host.Outcome State Fault Refusal :=
  match codecCheck s with
  | some c => raise false c s
  | none => complete (s.setMem (runCode s.core.strat (parityCall s) s.mem))

/-- VERIFY (R212): a parity mismatch is a result, not a condition. -/
def execVerify (s : State) : Host.Outcome State Fault Refusal :=
  match codecCheck s with
  | some c => raise false c s
  | none => complete (s.setMatch (runCheck s.core.strat (parityCall s) s.mem))

/-! ### DECODE (R213) -/

/-- `P`: the present shards, ascending. -/
def presentShards (s : State) : List Nat := (List.range s.shardCount).filter fun i => (s.shardAt i).present

/-- `sub`: the `k` present shards with the lowest indices (R214). -/
def chosenShards (s : State) : List Nat := (presentShards s).take s.dataCount

/-- `Dmiss`: the missing data shards, ascending. -/
def missingData (s : State) : List Nat := (List.range s.dataCount).filter fun i => !(s.shardAt i).present

/-- `Pmiss`: the missing parity shards, ascending. -/
def missingParity (s : State) : List Nat := (parityIndices s).filter fun i => !(s.shardAt i).present

/-- `D = mat_inv(mat_sub(em, sub))`. -/
def decodeMatrix (s : State) : Except Condition Matrix :=
  match matSub s.core.em (chosenShards s) with
  | .error c => .error c
  | .ok S => matInv S

/-- The first `RunCode`: missing data shards from the chosen shards. -/
def dataCall (s : State) (D : Matrix) : CodeCall :=
  { mx := D
    rows := missingData s
    ins := (chosenShards s).map s.shBase
    outs := (missingData s).map s.shBase
    off := s.offset
    cnt := s.count }

/-- The second `RunCode`: missing parity shards from the data shards. -/
def missingParityCall (s : State) : CodeCall :=
  { mx := s.core.em
    rows := missingParity s
    ins := (List.range s.dataCount).map s.shBase
    outs := (missingParity s).map s.shBase
    off := s.offset
    cnt := s.count }

/-- Memory after the two `RunCode` calls, each skipped when it has no output; the second reads the rebuilt data. -/
def decodeMemory (s : State) (D : Matrix) : Memory :=
  let mem1 := if (missingData s).isEmpty then s.mem else runCode s.core.strat (dataCall s D) s.mem
  if (missingParity s).isEmpty then mem1 else runCode s.core.strat (missingParityCall s) mem1

/-- DECODE (R213). A Singular here is R215's internal-invariant violation: it sets `FATAL`. -/
def execDecode (s : State) : Host.Outcome State Fault Refusal :=
  match codecCheck s with
  | some c => raise true c s
  | none =>
    if (presentShards s).length < s.dataCount then raise true .insufficientShards s
    else if (presentShards s).length = s.shardCount then complete s
    else
      match decodeMatrix s with
      | .error c => raise true c s
      | .ok D => complete (s.setMem (decodeMemory s D))

end Sys2Proof.Machine
end

