-- ==== Sys2Proof/Machine/CreateCommand.lean ====
section
/-! DEFINITION. CREATE (R194 to R196). -/

namespace Sys2Proof.Machine

/-- The `(k, m)` that CREATE accepts (R194). -/
def legalConfig (k m : Nat) : Bool := decide (1 ≤ k) && decide (1 ≤ m) && decide (k + m ≤ Config.fieldSize)

/-- CREATE (R194). A Singular from the construction is R196's internal-invariant violation: it sets `FATAL`. -/
def execCreate (k m : Nat) (s : State) : Host.Outcome State Fault Refusal :=
  if !legalConfig k m then raise true .invalidConfiguration s
  else
    match buildEm k m with
    | .error c => raise true c s
    | .ok E => complete (s.writeCodec k m E)

end Sys2Proof.Machine
end

