-- ==== Sys2Proof/Machine/FieldCommands.lean ====
section
/-! DEFINITION. The six GF commands (R134 to R140). Sources are read before the destination is written. -/

namespace Sys2Proof.Machine

/-- The common form of a GF command (R140): the result goes to `x[d]`, or the command raises and `x[d]` keeps its value. -/
def finishField (d : Fin 16) (r : Except Condition Byte) (s : State) : Host.Outcome State Fault Refusal :=
  match r with
  | .error c => raise false c s
  | .ok v => complete (s.writeX d v)

/-- GFADD (R134); also the subtract, `gfsub` (R99). -/
def execGfadd (d a b : Fin 16) (s : State) : Host.Outcome State Fault Refusal :=
  finishField d (.ok (gfAdd (s.readX a) (s.readX b))) s

/-- GFMUL (R135): multiply by the product table. -/
def execGfmul (d a b : Fin 16) (s : State) : Host.Outcome State Fault Refusal :=
  finishField d (.ok (mulT (s.readX a) (s.readX b))) s

/-- GFMULX (R136): multiply by the log and exponent tables. -/
def execGfmulx (d a b : Fin 16) (s : State) : Host.Outcome State Fault Refusal :=
  finishField d (.ok (mulX (s.readX a) (s.readX b))) s

/-- GFDIV (R137): a zero divisor raises DivideByZero, whatever the dividend. -/
def execGfdiv (d a b : Fin 16) (s : State) : Host.Outcome State Fault Refusal :=
  finishField d (gfDiv (s.readX a) (s.readX b)) s

/-- GFINV (R138): zero raises DivideByZero. -/
def execGfinv (d a : Fin 16) (s : State) : Host.Outcome State Fault Refusal :=
  finishField d (gfInv (s.readX a)) s

/-- GFEXP (R139): the exponent is the whole register `N`, unsigned. -/
def execGfexp (d a : Fin 16) (s : State) : Host.Outcome State Fault Refusal :=
  finishField d (.ok (gfExp (s.readX a) s.core.n.toNat)) s

end Sys2Proof.Machine
end

