-- ==== Sys2Proof/Machine/LoopCommands.lean ====
section
/-! DEFINITION. CODE and CHECK (R259 to R262). -/

namespace Sys2Proof.Machine

/-- A named buffer fails R259's checks: the window exceeds it, or it leaves the address space. -/
def badBuffer (s : State) (b : Nat) : Bool :=
  decide (s.offset + s.count > s.shLen b) || decide (s.shBase b + s.shLen b > Config.memSize)

/-- The common checks of CODE and CHECK (R259). -/
def loopCheck (ms : MatSrc) (nin nout : Nat) (s : State) : Option Condition :=
  if isEmptyMatrix (s.mat ms) then some .dimensionMismatch
  else if nin > (s.mat ms).cols then some .dimensionMismatch
  else if (s.selRows nout).any fun r => decide (r ≥ (s.mat ms).rows) then some .dimensionMismatch
  else if (List.range nin).any fun i => badBuffer s (s.selAt i).inp.toNat then some .dimensionMismatch
  else if (List.range nout).any fun o => badBuffer s (s.selAt o).out.toNat then some .dimensionMismatch
  else none

/-- The arguments that R259 assembles from `SEL` and the descriptors. -/
def loopCall (ms : MatSrc) (nin nout : Nat) (s : State) : CodeCall :=
  { mx := s.mat ms
    rows := s.selRows nout
    ins := s.selIns nin
    outs := s.selOuts nout
    off := s.offset
    cnt := s.count }

/-- CODE (R260). Overlapping buffers run the selected unit's access sequence literally (R263, U5; log entry 3). -/
def execCode (ms : MatSrc) (nin nout : Nat) (s : State) : Host.Outcome State Fault Refusal :=
  match loopCheck ms nin nout s with
  | some c => raise false c s
  | none => complete (s.setMem (runCode s.core.strat (loopCall ms nin nout s) s.mem))

/-- CHECK (R261). -/
def execCheck (ms : MatSrc) (nin nout : Nat) (s : State) : Host.Outcome State Fault Refusal :=
  match loopCheck ms nin nout s with
  | some c => raise false c s
  | none => complete (s.setMatch (runCheck s.core.strat (loopCall ms nin nout s) s.mem))

end Sys2Proof.Machine
end

