-- ==== Sys2Proof/Machine/MatrixCommands.lean ====
section
/-! DEFINITION. The five matrix commands (R166 to R171). The result is computed whole from the sources, then
written (R165), so a destination may be a source. -/

namespace Sys2Proof.Machine

/-- The common form of MMUL, MSUB and MINV: the result goes to `m[d]` as a whole, or the command raises. -/
def finishMatrix (d : Fin 4) (r : Except Condition Matrix) (s : State) : Host.Outcome State Fault Refusal :=
  match r with
  | .error c => raise false c s
  | .ok A => complete (s.writeM d A)

/-- The matrix image at `MADDR` (R61, R166). -/
def loadedMatrix (s : State) (rows cols : Nat) : Matrix :=
  matOf rows cols fun r c => s.mem.read (s.imageBase + r * cols + c)

/-- MLOAD (R166). -/
def execMload (d : Fin 4) (rows cols : Nat) (s : State) : Host.Outcome State Fault Refusal :=
  if s.imageBase + rows * cols > Config.memSize then raise false .dimensionMismatch s
  else complete (s.writeM d (loadedMatrix s rows cols))

/-- MSTORE (R167): the dimensions are not stored in memory. -/
def execMstore (ms : MatSrc) (s : State) : Host.Outcome State Fault Refusal :=
  if isEmptyMatrix (s.mat ms) then raise false .dimensionMismatch s
  else if s.imageBase + (s.mat ms).rows * (s.mat ms).cols > Config.memSize then raise false .dimensionMismatch s
  else complete (s.setMem (s.mem.writeBytes s.imageBase (matImage (s.mat ms))))

/-- MMUL (R168). -/
def execMmul (d : Fin 4) (ma mb : MatSrc) (s : State) : Host.Outcome State Fault Refusal :=
  if isEmptyMatrix (s.mat ma) then raise false .dimensionMismatch s
  else if isEmptyMatrix (s.mat mb) then raise false .dimensionMismatch s
  else finishMatrix d (matMul (s.mat ma) (s.mat mb)) s

/-- MSUB (R169): the row list is `SEL[0..n-1].ROW`. -/
def execMsub (d : Fin 4) (ms : MatSrc) (n : Nat) (s : State) : Host.Outcome State Fault Refusal :=
  if isEmptyMatrix (s.mat ms) then raise false .dimensionMismatch s
  else finishMatrix d (matSub (s.mat ms) (s.selRows n)) s

/-- MINV (R170): its Singular is an ordinary condition and does not set `FATAL`. -/
def execMinv (d : Fin 4) (ms : MatSrc) (s : State) : Host.Outcome State Fault Refusal :=
  if isEmptyMatrix (s.mat ms) then raise false .dimensionMismatch s
  else finishMatrix d (matInv (s.mat ms)) s

end Sys2Proof.Machine
end

