-- ==== Sys2Proof/Machine/SystemCommands.lean ====
section
/-! DEFINITION. The one system command (R284). -/

namespace Sys2Proof.Machine

/-- NOP (R284): its only effect is to clear `ERR`. -/
def execNop (s : State) : Host.Outcome State Fault Refusal := complete s

end Sys2Proof.Machine
end

