-- ==== Sys2Proof/Machine/Dispatch.lean ====
section
/-! DEFINITION. The execution of a decoded command: one arm per constructor of Instr. -/

namespace Sys2Proof.Machine

def exec (i : Instr) (s : State) : Host.Outcome State Fault Refusal :=
  match i with
  | .nop => Sys2Proof.Machine.execNop s
  | .gfadd d a b => Sys2Proof.Machine.execGfadd d a b s
  | .gfmul d a b => Sys2Proof.Machine.execGfmul d a b s
  | .gfmulx d a b => Sys2Proof.Machine.execGfmulx d a b s
  | .gfdiv d a b => Sys2Proof.Machine.execGfdiv d a b s
  | .gfinv d a => Sys2Proof.Machine.execGfinv d a s
  | .gfexp d a => Sys2Proof.Machine.execGfexp d a s
  | .mload d rows cols => Sys2Proof.Machine.execMload d rows cols s
  | .mstore ms => Sys2Proof.Machine.execMstore ms s
  | .mmul d ma mb => Sys2Proof.Machine.execMmul d ma mb s
  | .msub d ms n => Sys2Proof.Machine.execMsub d ms n s
  | .minv d ms => Sys2Proof.Machine.execMinv d ms s
  | .create k m => Sys2Proof.Machine.execCreate k m s
  | .encode => Sys2Proof.Machine.execEncode s
  | .verify => Sys2Proof.Machine.execVerify s
  | .decode => Sys2Proof.Machine.execDecode s
  | .code ms nin nout => Sys2Proof.Machine.execCode ms nin nout s
  | .check ms nin nout => Sys2Proof.Machine.execCheck ms nin nout s

end Sys2Proof.Machine
end

