-- ==== Sys2Proof/Machine/Port.lean ====
section
/-! DEFINITION. The register port and the host's transactions (R24 to R36, R280 to R283, R303, R340). -/

namespace Sys2Proof.Machine

/-- The locations of the register map (R24). -/
inductive PortLoc
  | cmd | status | strat | n | off | cnt | maddr | cfg
  | mdim (i : Fin 5)
  | x (i : Fin 16)
  | sel (j : Fin 256)
  | shBase (i : Fin 256)
  | shLen (i : Fin 256)
  | shFlag (i : Fin 256)
  | reserved
deriving DecidableEq, Repr

/-- The location at a byte offset (R24): `none` for an offset that is not 4-byte aligned or lies outside the window (U2). -/
def portLoc (off : Nat) : Option PortLoc :=
  if off % 4 ≠ 0 ∨ off ≥ Config.windowSize then none
  else if off = 0x0000 then some .cmd
  else if off = 0x0004 then some .status
  else if off = 0x0008 then some .strat
  else if off = 0x000C then some .n
  else if off = 0x0010 then some .off
  else if off = 0x0014 then some .cnt
  else if off = 0x0018 then some .maddr
  else if off = 0x001C then some .cfg
  else if off < 0x0034 then some (.mdim (Fin.ofNat 5 ((off - 0x0020) / 4)))
  else if off < 0x0040 then some .reserved
  else if off < 0x0080 then some (.x (Fin.ofNat 16 ((off - 0x0040) / 4)))
  else if off < 0x0400 then some .reserved
  else if off < 0x0800 then some (.sel (Fin.ofNat 256 ((off - 0x0400) / 4)))
  else if off < 0x1000 then some .reserved
  else if off % 16 = 0 then some (.shBase (Fin.ofNat 256 ((off - 0x1000) / 16)))
  else if off % 16 = 4 then some (.shLen (Fin.ofNat 256 ((off - 0x1000) / 16)))
  else if off % 16 = 8 then some (.shFlag (Fin.ofNat 256 ((off - 0x1000) / 16)))
  else some .reserved

/-- The offset of a named location (R24's "offset" column; `reserved` has many and no single one). -/
def portOffset : PortLoc → Option Nat
  | .cmd => some 0x0000
  | .status => some 0x0004
  | .strat => some 0x0008
  | .n => some 0x000C
  | .off => some 0x0010
  | .cnt => some 0x0014
  | .maddr => some 0x0018
  | .cfg => some 0x001C
  | .mdim i => some (0x0020 + 4 * i.val)
  | .x i => some (0x0040 + 4 * i.val)
  | .sel j => some (0x0400 + 4 * j.val)
  | .shBase i => some (0x1000 + 16 * i.val)
  | .shLen i => some (0x1004 + 16 * i.val)
  | .shFlag i => some (0x1008 + 16 * i.val)
  | .reserved => none

/-! ### Reads (R282) -/

/-- `MDIM[i]` as the host reads it (R35): `ROWS` in bits 15:0, `COLS` in bits 31:16. -/
def mdimWord (A : Matrix) : Word := BitVec.ofNat 32 A.rows ||| (BitVec.ofNat 32 A.cols <<< 16)

/-- `SEL[j]` as the host reads it (R32): bits 31:24 are 0. -/
def selWord (e : SelEntry) : Word :=
  e.inp.setWidth 32 ||| (e.out.setWidth 32 <<< 8) ||| (e.row.setWidth 32 <<< 16)

/-- The matrix register that `MDIM[i]` is a view of (R35): 0..3 for `m0..m3`, 4 for `em`. -/
def mdimSource (i : Fin 5) : MatSrc := if h : i.val < 4 then .m ⟨i.val, h⟩ else .em

/-- The value a host read returns (R23 to R36): `CMD` and reserved locations read 0. -/
def portRead (loc : PortLoc) (s : State) : Word :=
  match loc with
  | .cmd => 0
  | .status => statusWord s.core.status
  | .strat => BitVec.ofNat 32 s.core.strat.val
  | .n => s.core.n
  | .off => s.core.off
  | .cnt => s.core.cnt
  | .maddr => s.core.maddr
  | .cfg => cfgWord s.core.cfg
  | .mdim i => mdimWord (s.mat (mdimSource i))
  | .x i => s.core.x[i].setWidth 32
  | .sel j => selWord s.core.sel[j]
  | .shBase i => s.core.shard[i].base
  | .shLen i => s.core.shard[i].len
  | .shFlag i => (BitVec.ofBool s.core.shard[i].present).setWidth 32
  | .reserved => 0

/-! ### Writes other than to `CMD` (R281) -/

/-- `STRAT` takes a legal unit number; any other value is ignored (R27). -/
def writeStrat (v : Word) (old : Fin 12) : Fin 12 := if h : v.toNat < 12 then ⟨v.toNat, h⟩ else old

/-- What `SEL[j]` keeps of a written word: bits 31:24 are dropped (R32, R281). -/
def selOfWord (v : Word) : SelEntry :=
  { inp := v.extractLsb' 0 8, out := v.extractLsb' 8 8, row := v.extractLsb' 16 8 }

/-- A descriptor with its `SHBASE` replaced (R33). -/
def withBase (d : Descriptor) (v : Word) : Descriptor := { d with base := v }

/-- A descriptor with its `SHLEN` replaced (R33). -/
def withLen (d : Descriptor) (v : Word) : Descriptor := { d with len := v }

/-- A descriptor with its `PRESENT` bit replaced (R34). -/
def withPresent (d : Descriptor) (b : Bool) : Descriptor := { d with present := b }

/-- The core after a host write of `v` to a location other than `CMD` (R27 to R36, R281): `CMD` itself stores nothing (R25). -/
def portWrite (loc : PortLoc) (v : Word) (c : CoreState) : CoreState :=
  match loc with
  | .cmd => c
  | .status => c
  | .strat => { c with strat := writeStrat v c.strat }
  | .n => { c with n := v }
  | .off => { c with off := v }
  | .cnt => { c with cnt := v }
  | .maddr => { c with maddr := v }
  | .cfg => c
  | .mdim _ => c
  | .x i => { c with x := c.x.set i (v.setWidth 8) }
  | .sel j => { c with sel := c.sel.set j (selOfWord v) }
  | .shBase i => { c with shard := c.shard.set i (withBase c.shard[i] v) }
  | .shLen i => { c with shard := c.shard.set i (withLen c.shard[i] v) }
  | .shFlag i => { c with shard := c.shard.set i (withPresent c.shard[i] (v.getLsbD 0)) }
  | .reserved => c

/-! ### Command acceptance (R283, R303) -/

/-- `HostWrite(CMD, w)` (R283): a halted core drops the word; an illegal word raises IllegalCommand; a legal one is executed. -/
def acceptCommand (w : Word) (s : State) : Host.Outcome State Fault Refusal :=
  if s.core.status.fatal then .next s
  else
    match decode w with
    | .error _ => raise false .illegalCommand s
    | .ok i => exec i s

/-! ### Transactions -/

/-- The host receives a value. -/
def State.reply (s : State) (v : Word) : State := { s with host.replies := v :: s.host.replies }

/-- `HostWrite(off, v)` (R281, R283). -/
def hostWrite (off : Nat) (v : Word) (s : State) : Host.Outcome State Fault Refusal :=
  match portLoc off with
  | none => .refused .portAccessUnspecified
  | some .cmd => acceptCommand v s
  | some loc => .next { s with core := portWrite loc v s.core }

/-- `HostRead(off)` (R282): no side effect on the core or on memory. -/
def hostRead (off : Nat) (s : State) : Host.Outcome State Fault Refusal :=
  match portLoc off with
  | none => .refused .portAccessUnspecified
  | some loc => .next (s.reply (portRead loc s))

/-- Reset (R340): the core instance takes its reset values, shard memory is not changed. -/
def resetCore (s : State) : State := { s with core := CoreState.reset }

/-- One transaction of the host (R280). -/
def runTxn (t : HostTxn) (s : State) : Host.Outcome State Fault Refusal :=
  match t with
  | .write off v => hostWrite off v s
  | .read off => hostRead off s
  | .oddAccess _ _ => .refused .portAccessUnspecified
  | .memWrite addr b => if addr < Config.memSize then .next (s.setMem (s.mem.write addr b)) else .fault .noSuchAddress
  | .memRead addr => if addr < Config.memSize then .next (s.reply ((s.mem.read addr).setWidth 32)) else .fault .noSuchAddress
  | .reset => .next (resetCore s)

end Sys2Proof.Machine
end

