-- ==== Sys2Proof/Machine/Step.lean ====
section
/-! DEFINITION. One step of the machine: the host's next transaction (R280), or nothing when there is none (R309). -/

namespace Sys2Proof.Machine

/-- The step. The core acts only in response to a host write to `CMD` (R280); with no transaction pending it is idle and
holds its state (R309). -/
def step (s : State) : Host.Outcome State Fault Refusal :=
  match s.host.pending with
  | [] => .next s
  | t :: rest => runTxn t { s with host.pending := rest }

/-- The state in which the host's next transaction writes the command word to `CMD`, the others after it. -/
def State.withFetchWord (s : State) (nbits w : Nat) : State :=
  { s with host.pending := .write 0 (BitVec.ofNat 32 (w % 2 ^ nbits)) :: s.host.pending }

end Sys2Proof.Machine
end

