-- ==== Sys2Proof/Machine/Footprint.lean ====
section
/-! DEFINITION. The memory footprints of the commands (R64) and the buffers that must not overlap (R343). -/

namespace Sys2Proof.Machine

/-- A range of shard memory: its first address and its size. -/
structure Range where
  base : Nat
  size : Nat
deriving DecidableEq, Repr

/-- The range holds the address. -/
def inRange (r : Range) (a : Nat) : Bool := decide (r.base ≤ a) && decide (a < r.base + r.size)

/-- Some range of the list holds the address. -/
def inFootprint (rs : List Range) (a : Nat) : Bool := rs.any fun r => inRange r a

/-- The window of shard `i`: `[SHBASE[i] + OFF, SHBASE[i] + OFF + CNT)` (R64). -/
def shardWindow (s : State) (i : Nat) : Range := { base := s.shBase i + s.offset, size := s.count }

/-- The windows of the buffers at the given bases. -/
def baseWindows (s : State) (bases : List Nat) : List Range := bases.map fun b => { base := b + s.offset, size := s.count }

/-- The selected unit reads its output bytes back: the four read-modify-write orders (R242, R243). -/
def readsOutputs (u : Fin 12) : Bool :=
  match unitOrder u with
  | .bio => true
  | .boi => false
  | .ibo => true
  | .iob => true
  | .obi => false
  | .oib => true

/-- The "writes" column of R64's table. -/
def writeFootprint (i : Instr) (s : State) : List Range :=
  match i with
  | .nop => []
  | .gfadd _ _ _ => []
  | .gfmul _ _ _ => []
  | .gfmulx _ _ _ => []
  | .gfdiv _ _ _ => []
  | .gfinv _ _ => []
  | .gfexp _ _ => []
  | .mload _ _ _ => []
  | .mstore ms => [{ base := s.imageBase, size := (s.mat ms).rows * (s.mat ms).cols }]
  | .mmul _ _ _ => []
  | .msub _ _ _ => []
  | .minv _ _ => []
  | .create _ _ => []
  | .encode => (parityIndices s).map (shardWindow s)
  | .verify => []
  | .decode => (missingData s ++ missingParity s).map (shardWindow s)
  | .code _ _ nout => baseWindows s (s.selOuts nout)
  | .check _ _ _ => []

/-- The "reads" column of R64's table. -/
def readFootprint (i : Instr) (s : State) : List Range :=
  match i with
  | .nop => []
  | .gfadd _ _ _ => []
  | .gfmul _ _ _ => []
  | .gfmulx _ _ _ => []
  | .gfdiv _ _ _ => []
  | .gfinv _ _ => []
  | .gfexp _ _ => []
  | .mload _ rows cols => [{ base := s.imageBase, size := rows * cols }]
  | .mstore _ => []
  | .mmul _ _ _ => []
  | .msub _ _ _ => []
  | .minv _ _ => []
  | .create _ _ => []
  | .encode =>
    (List.range s.dataCount).map (shardWindow s) ++
      (if readsOutputs s.core.strat then (parityIndices s).map (shardWindow s) else [])
  | .verify => (List.range s.shardCount).map (shardWindow s)
  | .decode =>
    (chosenShards s ++ List.range s.dataCount).map (shardWindow s) ++
      (if readsOutputs s.core.strat then (missingData s ++ missingParity s).map (shardWindow s) else [])
  | .code _ nin nout =>
    baseWindows s (s.selIns nin) ++ (if readsOutputs s.core.strat then baseWindows s (s.selOuts nout) else [])
  | .check _ nin nout => baseWindows s (s.selIns nin) ++ baseWindows s (s.selOuts nout)

/-- Two shards' windows share no byte. -/
def shardsApart (s : State) (i j : Nat) : Bool := windowsDisjoint (s.shBase i) (s.shBase j) s.count

/-- The requirement of R343 on software: for ENCODE each parity window against all shards' windows, for DECODE all shards' windows
against each other, for CODE each output window against all input and output windows. Other commands have none. -/
def overlapFree (i : Instr) (s : State) : Bool :=
  match i with
  | .nop => true
  | .gfadd _ _ _ => true
  | .gfmul _ _ _ => true
  | .gfmulx _ _ _ => true
  | .gfdiv _ _ _ => true
  | .gfinv _ _ => true
  | .gfexp _ _ => true
  | .mload _ _ _ => true
  | .mstore _ => true
  | .mmul _ _ _ => true
  | .msub _ _ _ => true
  | .minv _ _ => true
  | .create _ _ => true
  | .encode =>
    (parityIndices s).all fun j => (List.range s.shardCount).all fun i => i == j || shardsApart s j i
  | .verify => true
  | .decode =>
    (List.range s.shardCount).all fun j => (List.range s.shardCount).all fun i => i == j || shardsApart s j i
  | .code ms nin nout => nonOverlapping (loopCall ms nin nout s)
  | .check _ _ _ => true

end Sys2Proof.Machine
end

