-- ==== Sys2Proof/Machine/System.lean ====
section
/-! DEFINITION. Several core instances over one shard memory (R6 `NCORES`, R280, R308): each has its own state, they share
nothing but memory, and the host's transactions reach them one at a time. -/

namespace Sys2Proof.Machine

/-- `NCORES` core instances and the memory they share (R308). -/
structure System where
  cores : List CoreState
  mem : Memory
  /-- What host reads returned, latest first: the model's bookkeeping. -/
  replies : List Word := []
deriving DecidableEq, Repr

/-- Every instance comes out of reset idle (R308, R340), over the memory the platform left (R42). -/
def resetSystem (ncores : Nat) (mem : Memory) : System :=
  { cores := List.replicate ncores CoreState.reset, mem := mem }

/-- Instance `i` with the shared memory, as a machine of its own. -/
def instanceState (sys : System) (c : CoreState) : State :=
  { core := c, mem := sys.mem, host := { pending := [], replies := sys.replies } }

/-- One host transaction at the window of instance `i`. An instance that does not exist has no window to reach. -/
def systemTxn (i : Nat) (t : HostTxn) (sys : System) : Host.Outcome System Fault Refusal :=
  match sys.cores[i]? with
  | none => .fault .noSuchAddress
  | some c =>
    match runTxn t (instanceState sys c) with
    | .next s => .next { cores := sys.cores.set i s.core, mem := s.mem, replies := s.host.replies }
    | .fault r => .fault r
    | .refused r => .refused r

/-- A command word presented to instance `i` (R283). -/
def systemCommand (i : Nat) (w : Word) (sys : System) : Host.Outcome System Fault Refusal :=
  systemTxn i (.write 0 w) sys

/-- R68's requirement on two commands: the write footprint of each is disjoint from the read and write footprints of the other. -/
def footprintsDisjoint (i : Instr) (s : State) (j : Instr) (t : State) : Prop :=
  ∀ a, (inFootprint (writeFootprint i s) a = true →
      inFootprint (readFootprint j t) a = false ∧ inFootprint (writeFootprint j t) a = false) ∧
    (inFootprint (writeFootprint j t) a = true →
      inFootprint (readFootprint i s) a = false ∧ inFootprint (writeFootprint i s) a = false)

end Sys2Proof.Machine
end

