-- ==== Sys2Proof/Safety.lean ====
section
/-! DEFINITION. What the claims call a good state: the invariant of the machine, and the condition of a halt that never comes. -/

namespace Sys2Proof.Machine

/-- `CFG` and `em` belong together (R26, R38): with `VALID = 1` the counts are legal and `em` is `build_em(K, M)`; with
`VALID = 0` both counts are 0 and `em` is empty. -/
def CodecInv (c : CoreState) : Prop :=
  (c.cfg.valid = true → legalConfig c.cfg.k.toNat c.cfg.m.toNat = true ∧ buildEm c.cfg.k.toNat c.cfg.m.toNat = .ok c.em) ∧
  (c.cfg.valid = false → c.cfg.k = 0 ∧ c.cfg.m = 0 ∧ c.em = {})

/-- The invariant of one core instance. -/
structure CoreInv (c : CoreState) : Prop where
  /-- R37: every matrix register is empty or holds a value of legal shape. -/
  matrices : ∀ i : Fin 4, c.m[i].wf
  /-- R38, R37. -/
  encoding : c.em.wf
  /-- R26, R38. -/
  codec : CodecInv c
  /-- R300: code 7 is never produced. -/
  code7 : c.status.err ≠ 7
  /-- R303: while the core is halted `ERR` stays 5. -/
  halted : c.status.fatal = true → c.status.err = 5

/-- The invariant of the machine: the instance's and the canonical form of shard memory. -/
structure Inv (s : State) : Prop where
  core : CoreInv s.core
  mem : s.mem.wf

/-- R303: `FATAL = 0`, which the core never leaves in a run from reset. -/
def Running (s : State) : Prop := s.core.status.fatal = false

/-- R210's checks all pass: a codec is configured, all `n` shards have one length, the window lies inside it, and every
shard lies inside the address space. -/
def CodecReady (s : State) : Prop :=
  s.core.cfg.valid = true ∧ (∀ i < s.shardCount, s.shLen i = s.shLen 0) ∧ s.offset + s.count ≤ s.shLen 0 ∧
    ∀ i < s.shardCount, s.shBase i + s.shLen 0 ≤ Config.memSize

/-- Buffer `b` passes R259's two checks. -/
def BufferReady (s : State) (b : Nat) : Prop :=
  s.offset + s.count ≤ s.shLen b ∧ s.shBase b + s.shLen b ≤ Config.memSize

/-- R259's checks all pass. -/
def LoopReady (ms : MatSrc) (nin nout : Nat) (s : State) : Prop :=
  (s.mat ms).rows ≠ 0 ∧ nin ≤ (s.mat ms).cols ∧ (∀ o < nout, (s.selAt o).row.toNat < (s.mat ms).rows) ∧
    (∀ i < nin, BufferReady s (s.selAt i).inp.toNat) ∧ ∀ o < nout, BufferReady s (s.selAt o).out.toNat

/-- The commands that invert a matrix the core built itself: only their Singular is fatal (R301). -/
def invertsOwnMatrix (i : Instr) : Bool := instrOpcode i == .create || instrOpcode i == .decode

end Sys2Proof.Machine
end

