-- ==== Sys2Proof/Certificates/Slice0/Obligations.lean ====
section
/-! DEFINITION. The statements about the GFRS core that the provers are asked to settle. -/

open Sys2Proof Sys2Proof.Machine

/-! ### Encoding -/

/-- R93, R94, R98: every well-formed command survives encoding and decoding with every operand. -/
def Obligations.DecodeOfEncodeIsTheCommand : Prop :=
  ∀ i : Instr, wellFormed i = true → decode (encode i) = .ok i

/-- R94: each legal word is the one word of one well-formed command. -/
def Obligations.EncodeOfDecodeIsTheWord : Prop :=
  ∀ (w : Word) (i : Instr), decode w = .ok i → encode i = w ∧ wellFormed i = true

/-- R95: a word decodes to a command exactly when the command's row accepts it, mask first, then the constraints. -/
def Obligations.DecoderAgreesWithMatchAndMask : Prop :=
  ∀ (w : Word) (c : Opcode),
    (∃ i, decode w = .ok i ∧ instrOpcode i = c) ↔ ∃ r ∈ opcodeTable, r.opcode = c ∧ rowAccepts r w = true

/-- R93, R98: words written out from the encodings, one of every family. -/
def Obligations.SampleWordsDecode : Prop :=
  decode 0x00000000 = .ok .nop ∧
  decode 0x10310002 = .ok (.gfadd 3 1 2) ∧
  decode 0x14210000 = .ok (.gfinv 2 1) ∧
  decode 0x2030FF00 = .ok (.mload 3 256 1) ∧
  decode 0x22340000 = .ok (.mmul 3 .em (.m 0)) ∧
  decode 0x30004002 = .ok (.create 4 2) ∧
  decode 0x42000000 = .ok .decode ∧
  decode 0x5004FFFF = .ok (.code .em 256 256)

/-! ### Command acceptance and the end of a command -/

/-- R283: what a host write to `CMD` does, in a step of the machine. -/
def Obligations.StepAcceptsCommandWord : Prop :=
  ∀ (s : State) (w : Word) (rest : List HostTxn), s.host.pending = .write 0 w :: rest →
    (s.core.status.fatal = true → step s = .next { s with host.pending := rest }) ∧
    (s.core.status.fatal = false → ∀ e, decode w = .error e →
      step s = .next { s with host.pending := rest, core.status.err := 6 }) ∧
    (s.core.status.fatal = false → ∀ i, decode w = .ok i → step s = exec i { s with host.pending := rest })

/-- The word placed by `withFetchWord` is the next one the step runs (log entry 2). -/
def Obligations.FetchWordIsRunNext : Prop :=
  ∀ (s : State) (w : Word) (i : Instr), s.core.status.fatal = false → decode w = .ok i →
    step (s.withFetchWord 32 w.toNat) = exec i s

/-- R309: with nothing pending the core is idle and holds its state. The list of transactions is the model's (log entry 2). -/
def Obligations.IdleStepHoldsState : Prop :=
  ∀ s : State, s.host.pending = [] → step s = .next s

/-- R10: every command, in every state, completes with `ERR = 0` or raises one condition and writes nothing but `STATUS`. -/
def Obligations.CommandCompletesOrRaises : Prop :=
  ∀ (i : Instr) (s : State), ∃ t, exec i s = .next t ∧
    (t.core.status.err = 0 ∨
      ∃ c : Condition, t = { s with
        core.status.err := conditionCode c
        core.status.fatal := s.core.status.fatal || (invertsOwnMatrix i && c == .singular) })

/-- R27 to R34, R286: no command writes a control register, a selector or a descriptor, or the host's side. -/
def Obligations.NoCommandWritesControlRegisters : Prop :=
  ∀ (i : Instr) (s t : State), exec i s = .next t →
    t.core.strat = s.core.strat ∧ t.core.n = s.core.n ∧ t.core.off = s.core.off ∧ t.core.cnt = s.core.cnt ∧
    t.core.maddr = s.core.maddr ∧ t.core.sel = s.core.sel ∧ t.core.shard = s.core.shard ∧ t.host = s.host

/-- The "written by" column of R20, and R23: which commands can change what. -/
def Obligations.StateWrittenOnlyByItsCommands : Prop :=
  ∀ (i : Instr) (s t : State), exec i s = .next t →
    (instrOpcode i ∉ [.gfadd, .gfmul, .gfmulx, .gfdiv, .gfinv, .gfexp] → t.core.x = s.core.x) ∧
    (instrOpcode i ∉ [.mload, .mmul, .msub, .minv] → t.core.m = s.core.m) ∧
    (instrOpcode i ≠ .create → t.core.em = s.core.em ∧ t.core.cfg = s.core.cfg) ∧
    (instrOpcode i ∉ [.verify, .check] → t.core.status.matched = s.core.status.matched) ∧
    (instrOpcode i ∉ [.create, .decode] → t.core.status.fatal = s.core.status.fatal) ∧
    (instrOpcode i ∉ [.mstore, .encode, .decode, .code] → t.mem = s.mem)

/-- R64: a command writes no byte outside the "writes" column, whatever the buffers. -/
def Obligations.NoWriteOutsideFootprint : Prop :=
  ∀ (i : Instr) (s t : State), exec i s = .next t →
    ∀ a : Nat, inFootprint (writeFootprint i s) a = false → t.mem.read a = s.mem.read a

/-- R284: NOP clears `ERR` and does nothing else. -/
def Obligations.NopClearsErrOnly : Prop :=
  ∀ s : State, exec .nop s = .next { s with core.status.err := 0 }

/-! ### The field -/

/-- R124, R125: the printed tables are the powers of `GEN` and their logarithms. -/
def Obligations.TablesArePowersAndLogarithms : Prop :=
  expTable.length = 255 ∧ logTable.length = 255 ∧ expAt 0 = 0x01 ∧
  (∀ i < 254, expAt (i + 1) = gfMul (expAt i) 0x02) ∧ gfMul (expAt 254) 0x02 = 0x01 ∧
  (∀ i < 255, (logAt (expAt i)).toNat = i) ∧ ∀ a : Byte, a ≠ 0 → (logAt a).toNat < 255 ∧ expAt (logAt a).toNat = a

/-- R129: both methods compute the product for every pair. -/
def Obligations.MultiplicationMethodsAgree : Prop :=
  ∀ a b : Byte, mulT a b = gfMul a b ∧ mulX a b = gfMul a b

/-- R133: the field laws. -/
def Obligations.FieldLawsHold : Prop :=
  (∀ a b : Byte, gfMul a b = gfMul b a) ∧
  (∀ a b c : Byte, gfMul (gfMul a b) c = gfMul a (gfMul b c)) ∧
  (∀ a b c : Byte, gfMul a (b ^^^ c) = gfMul a b ^^^ gfMul a c) ∧
  (∀ a : Byte, gfMul a 1 = a ∧ gfMul a 0 = 0) ∧
  (∀ a : Byte, a ≠ 0 → ∃ v, gfInv a = .ok v ∧ gfMul a v = 1) ∧
  (∀ a b : Byte, b ≠ 0 → (∃ q, gfDiv a b = .ok q ∧ gfMul q b = a) ∧ gfDiv (gfMul a b) b = .ok a) ∧
  (∀ (a : Byte) (n : Nat), gfExp a (n + 1) = gfMul (gfExp a n) a) ∧
  (∀ a : Byte, a ≠ 0 → gfExp a 255 = 1)

/-- R134, R135: GFADD and GFMUL write their result to `x[d]`, clear `ERR` and change nothing else. -/
def Obligations.GfaddGfmulWriteTheirResult : Prop :=
  ∀ (d a b : Fin 16) (s : State),
    exec (.gfadd d a b) s = .next { s with
      core.x := s.core.x.set d (s.core.x[a] ^^^ s.core.x[b])
      core.status.err := 0 } ∧
    exec (.gfmul d a b) s = .next { s with
      core.x := s.core.x.set d (gfMul s.core.x[a] s.core.x[b])
      core.status.err := 0 }

/-- R136, R129: GFMULX writes the same product, a zero operand included. -/
def Obligations.GfmulxWritesTheProduct : Prop :=
  ∀ (d a b : Fin 16) (s : State),
    exec (.gfmulx d a b) s = .next { s with
      core.x := s.core.x.set d (gfMul s.core.x[a] s.core.x[b])
      core.status.err := 0 }

/-- R137, R130: GFDIV writes the one quotient, or raises DivideByZero for a zero divisor whatever the dividend. -/
def Obligations.GfdivWritesQuotientOrRaises : Prop :=
  ∀ (d a b : Fin 16) (s : State),
    (s.core.x[b] = 0 → exec (.gfdiv d a b) s = .next { s with core.status.err := 4 }) ∧
    (s.core.x[b] ≠ 0 → ∃ q : Byte, gfMul q s.core.x[b] = s.core.x[a] ∧
      (∀ q' : Byte, gfMul q' s.core.x[b] = s.core.x[a] → q' = q) ∧
      exec (.gfdiv d a b) s = .next { s with core.x := s.core.x.set d q, core.status.err := 0 })

/-- R138, R131: GFINV writes the one inverse, or raises DivideByZero for zero. -/
def Obligations.GfinvWritesInverseOrRaises : Prop :=
  ∀ (d a : Fin 16) (s : State),
    (s.core.x[a] = 0 → exec (.gfinv d a) s = .next { s with core.status.err := 4 }) ∧
    (s.core.x[a] ≠ 0 → ∃ v : Byte, gfMul s.core.x[a] v = 1 ∧ (∀ v' : Byte, gfMul s.core.x[a] v' = 1 → v' = v) ∧
      exec (.gfinv d a) s = .next { s with core.x := s.core.x.set d v, core.status.err := 0 })

/-- R139, R132: GFEXP writes `x[a]` multiplied by itself `N` times, the empty product being 1. -/
def Obligations.GfexpWritesThePower : Prop :=
  ∀ (d a : Fin 16) (s : State),
    exec (.gfexp d a) s = .next { s with
      core.x := s.core.x.set d ((fun r => gfMul r s.core.x[a])^[s.core.n.toNat] 1)
      core.status.err := 0 }

/-! ### The matrix unit -/

/-- R166: MLOAD reads the image at `MADDR` row by row, or raises when it leaves the address space. -/
def Obligations.MloadReadsTheImage : Prop :=
  ∀ (d : Fin 4) (rows cols : Nat) (s : State), wellFormed (.mload d rows cols) = true →
    (s.imageBase + rows * cols ≤ 2 ^ 32 → ∃ A : Matrix, A.wf ∧ A.rows = rows ∧ A.cols = cols ∧
      (∀ r < rows, ∀ c < cols, matAt A r c = s.mem.read (s.imageBase + r * cols + c)) ∧
      exec (.mload d rows cols) s = .next { s with core.m := s.core.m.set d A, core.status.err := 0 }) ∧
    (s.imageBase + rows * cols > 2 ^ 32 → exec (.mload d rows cols) s = .next { s with core.status.err := 2 })

/-- R167: MSTORE writes the image at `MADDR` and no other byte, or raises. -/
def Obligations.MstoreWritesTheImage : Prop :=
  ∀ (ms : MatSrc) (s : State), s.mem.wf →
    ((s.mat ms).rows = 0 ∨ s.imageBase + (s.mat ms).rows * (s.mat ms).cols > 2 ^ 32 →
      exec (.mstore ms) s = .next { s with core.status.err := 2 }) ∧
    ((s.mat ms).rows ≠ 0 → s.imageBase + (s.mat ms).rows * (s.mat ms).cols ≤ 2 ^ 32 → ∃ mem' : Memory,
      exec (.mstore ms) s = .next { s with mem := mem', core.status.err := 0 } ∧
      (∀ r < (s.mat ms).rows, ∀ c < (s.mat ms).cols,
        mem'.read (s.imageBase + r * (s.mat ms).cols + c) = matAt (s.mat ms) r c) ∧
      ∀ a, a < s.imageBase ∨ s.imageBase + (s.mat ms).rows * (s.mat ms).cols ≤ a → mem'.read a = s.mem.read a)

/-- R166, R167: MSTORE is the inverse of MLOAD. -/
def Obligations.MloadAfterMstoreRestores : Prop :=
  ∀ (ms : MatSrc) (d : Fin 4) (s t : State), s.mem.wf → (s.mat ms).wf → exec (.mstore ms) s = .next t →
    t.core.status.err = 0 → ∃ u, exec (.mload d (s.mat ms).rows (s.mat ms).cols) t = .next u ∧
      u.core.status.err = 0 ∧ u.core.m[d] = s.mat ms

/-- R168, R161: MMUL writes the product, or raises for an empty source or disagreeing inner dimensions. -/
def Obligations.MmulWritesTheProduct : Prop :=
  ∀ (d : Fin 4) (ma mb : MatSrc) (s : State),
    ((s.mat ma).rows = 0 ∨ (s.mat mb).rows = 0 ∨ (s.mat ma).cols ≠ (s.mat mb).rows →
      exec (.mmul d ma mb) s = .next { s with core.status.err := 2 }) ∧
    ((s.mat ma).rows ≠ 0 → (s.mat mb).rows ≠ 0 → (s.mat ma).cols = (s.mat mb).rows → ∃ P : Matrix,
      P.rows = (s.mat ma).rows ∧ P.cols = (s.mat mb).cols ∧
      (∀ r < P.rows, ∀ c < P.cols,
        matAt P r c = xorSum (s.mat ma).cols fun i => gfMul (matAt (s.mat ma) r i) (matAt (s.mat mb) i c)) ∧
      exec (.mmul d ma mb) s = .next { s with core.m := s.core.m.set d P, core.status.err := 0 })

/-- R169, R162: MSUB writes the rows that `SEL[0..n-1].ROW` list, in that order, or raises. -/
def Obligations.MsubWritesTheListedRows : Prop :=
  ∀ (d : Fin 4) (ms : MatSrc) (n : Nat) (s : State),
    ((s.mat ms).rows = 0 ∨ n ≠ (s.mat ms).cols ∨ (∃ j < n, (s.mat ms).rows ≤ (s.selAt j).row.toNat) →
      exec (.msub d ms n) s = .next { s with core.status.err := 2 }) ∧
    ((s.mat ms).rows ≠ 0 → n = (s.mat ms).cols → (∀ j < n, (s.selAt j).row.toNat < (s.mat ms).rows) → ∃ S : Matrix,
      S.rows = n ∧ S.cols = n ∧ (∀ j < n, ∀ c < n, matAt S j c = matAt (s.mat ms) (s.selAt j).row.toNat c) ∧
      exec (.msub d ms n) s = .next { s with core.m := s.core.m.set d S, core.status.err := 0 })

/-- R170: MINV by cases of `mat_inv`; its Singular leaves `FATAL` alone. -/
def Obligations.MinvWritesMatInvOrRaises : Prop :=
  ∀ (d : Fin 4) (ms : MatSrc) (s : State),
    ((s.mat ms).rows = 0 ∨ (s.mat ms).rows ≠ (s.mat ms).cols →
      exec (.minv d ms) s = .next { s with core.status.err := 2 }) ∧
    ((s.mat ms).rows ≠ 0 → (s.mat ms).rows = (s.mat ms).cols →
      (∃ B, matInv (s.mat ms) = .ok B ∧
        exec (.minv d ms) s = .next { s with core.m := s.core.m.set d B, core.status.err := 0 }) ∨
      (matInv (s.mat ms) = .error .singular ∧ exec (.minv d ms) s = .next { s with core.status.err := 5 }))

/-- R164, R170: on a square matrix MINV writes the two-sided inverse when there is one, and raises Singular exactly when
there is none. -/
def Obligations.MinvComputesTheInverse : Prop :=
  ∀ (d : Fin 4) (ms : MatSrc) (s : State) (n : Nat), (s.mat ms).wf → n ≠ 0 → (s.mat ms).rows = n → (s.mat ms).cols = n →
    ((∃ B, matMul (s.mat ms) B = .ok (matId n)) → ∃ B : Matrix, B.wf ∧
      matMul (s.mat ms) B = .ok (matId n) ∧ matMul B (s.mat ms) = .ok (matId n) ∧
      exec (.minv d ms) s = .next { s with core.m := s.core.m.set d B, core.status.err := 0 }) ∧
    ((¬∃ B, matMul (s.mat ms) B = .ok (matId n)) → exec (.minv d ms) s = .next { s with core.status.err := 5 })

/-! ### CREATE -/

/-- R194: CREATE installs the matrix it builds and `(k, m)`, or raises InvalidConfiguration. -/
def Obligations.CreateInstallsOrRaises : Prop :=
  ∀ (k m : Nat) (s : State),
    (k < 1 ∨ m < 1 ∨ k + m > 256 → exec (.create k m) s = .next { s with core.status.err := 1 }) ∧
    (1 ≤ k → 1 ≤ m → k + m ≤ 256 → ∀ E, buildEm k m = .ok E →
      exec (.create k m) s = .next { s with
        core.em := E
        core.cfg := { k := BitVec.ofNat 8 k, m := BitVec.ofNat 8 m, valid := true }
        core.status.err := 0 })

/-- R190 to R192, R194, R196: CREATE completes for every legal `(k, m)`. Its `(k+m) x k` matrix `E` is systematic, and it is the
one matrix with `E * T = V` for the base matrix `V`, whose row `r` is `1, r, r^2, ...`, and its top block `T`: the parity rows too. -/
def Obligations.CreateBuildsSystematicMatrix : Prop :=
  ∀ (k m : Nat) (s : State), 1 ≤ k → 1 ≤ m → k + m ≤ 256 → ∃ E V T : Matrix,
    buildEm k m = .ok E ∧ E.wf ∧ E.rows = k + m ∧ E.cols = k ∧
    (∀ r < k, ∀ c < k, matAt E r c = if r = c then 1 else 0) ∧
    V = vandermonde (k + m) k ∧
    (∀ r < k + m, ∀ c < k, matAt V r c = (fun x => gfMul x (BitVec.ofNat 8 r))^[c] 1) ∧
    matSub V (List.range k) = .ok T ∧ matMul E T = .ok V ∧
    exec (.create k m) s = .next { s with
      core.em := E
      core.cfg := { k := BitVec.ofNat 8 k, m := BitVec.ofNat 8 m, valid := true }
      core.status.err := 0 }

/-- R193: any `k` distinct rows of the encoding matrix form an invertible matrix. -/
def Obligations.AnyKRowsAreInvertible : Prop :=
  ∀ (k m : Nat) (E : Matrix) (L : List Nat), 1 ≤ k → 1 ≤ m → k + m ≤ 256 → buildEm k m = .ok E →
    L.length = k → L.Nodup → (∀ r ∈ L, r < k + m) →
    ∃ S B : Matrix, matSub E L = .ok S ∧ matInv S = .ok B

/-! ### The codec commands -/

/-- R210: the conditions that ENCODE, VERIFY and DECODE share, in their order. -/
def Obligations.CodecCommandsShareChecks : Prop :=
  ∀ (i : Instr) (s : State), i = .encode ∨ i = .verify ∨ i = .decode →
    (s.core.cfg.valid = false → exec i s = .next { s with core.status.err := 1 }) ∧
    (s.core.cfg.valid = true →
      (∃ j < s.shardCount, s.shLen j ≠ s.shLen 0) ∨ s.offset + s.count > s.shLen 0 ∨
        (∃ j < s.shardCount, s.shBase j + s.shLen 0 > 2 ^ 32) →
      exec i s = .next { s with core.status.err := 2 })

/-- R211: ENCODE leaves in every parity byte of the window the weighted sum of the data bytes, and changes no other byte. -/
def Obligations.EncodeWritesParity : Prop :=
  ∀ s : State, Inv s → CodecReady s → overlapFree .encode s = true → ∃ mem' : Memory,
    exec .encode s = .next { s with mem := mem', core.status.err := 0 } ∧
    (∀ j, s.dataCount ≤ j → j < s.shardCount → ∀ p < s.count,
      mem'.read (s.shBase j + s.offset + p) =
        xorSum s.dataCount fun i => gfMul (matAt s.core.em j i) (s.mem.read (s.shBase i + s.offset + p))) ∧
    ∀ a, (∀ j, s.dataCount ≤ j → j < s.shardCount → ∀ p < s.count, a ≠ s.shBase j + s.offset + p) →
      mem'.read a = s.mem.read a

/-- R212: VERIFY sets `MATCH` to whether every parity byte of the window is right, and writes nothing else but `ERR`. -/
def Obligations.VerifyComparesParity : Prop :=
  ∀ s : State, CodecReady s → ∃ b : Bool,
    exec .verify s = .next { s with core.status.matched := b, core.status.err := 0 } ∧
    (b = true ↔ ∀ j, s.dataCount ≤ j → j < s.shardCount → ∀ p < s.count,
      s.mem.read (s.shBase j + s.offset + p) =
        xorSum s.dataCount fun i => gfMul (matAt s.core.em j i) (s.mem.read (s.shBase i + s.offset + p)))

/-- R213, R214: DECODE rebuilds the missing data shards from the `k` lowest present shards, then the missing parity shards
from the data, and changes no other byte; with too few present it raises, with none missing it does nothing. -/
def Obligations.DecodeRebuildsMissingShards : Prop :=
  ∀ s : State, Inv s → CodecReady s →
    ((presentShards s).length < s.dataCount → exec .decode s = .next { s with core.status.err := 3 }) ∧
    (s.dataCount ≤ (presentShards s).length → (presentShards s).length = s.shardCount →
      exec .decode s = .next { s with core.status.err := 0 }) ∧
    (s.dataCount ≤ (presentShards s).length → (presentShards s).length < s.shardCount → overlapFree .decode s = true →
      ∀ S D : Matrix, matSub s.core.em ((presentShards s).take s.dataCount) = .ok S → matInv S = .ok D →
      ∃ mem' : Memory, exec .decode s = .next { s with mem := mem', core.status.err := 0 } ∧
        (∀ d < s.dataCount, (s.shardAt d).present = false → ∀ p < s.count,
          mem'.read (s.shBase d + s.offset + p) = xorSum s.dataCount fun c =>
            gfMul (matAt D d c) (s.mem.read (s.shBase ((presentShards s).getD c 0) + s.offset + p))) ∧
        (∀ j, s.dataCount ≤ j → j < s.shardCount → (s.shardAt j).present = false → ∀ p < s.count,
          mem'.read (s.shBase j + s.offset + p) =
            xorSum s.dataCount fun i => gfMul (matAt s.core.em j i) (mem'.read (s.shBase i + s.offset + p))) ∧
        ∀ a, (∀ j < s.shardCount, (s.shardAt j).present = false → ∀ p < s.count, a ≠ s.shBase j + s.offset + p) →
          mem'.read a = s.mem.read a)

/-- R215: with enough shards present DECODE completes; the Singular branch is dead. -/
def Obligations.DecodeCompletesWithEnoughShards : Prop :=
  ∀ s : State, Inv s → CodecReady s → s.dataCount ≤ (presentShards s).length →
    ∃ mem' : Memory, exec .decode s = .next { s with mem := mem', core.status.err := 0 }

/-- R216: VERIFY matches after ENCODE, and a change of any one parity byte of the window is detected. -/
def Obligations.ParityCorruptionIsDetected : Prop :=
  ∀ s t : State, Inv s → CodecReady s → overlapFree .encode s = true → exec .encode s = .next t →
    exec .verify t = .next { t with core.status.matched := true, core.status.err := 0 } ∧
    ∀ j, s.dataCount ≤ j → j < s.shardCount → ∀ p < s.count, ∀ b : Byte,
      b ≠ t.mem.read (s.shBase j + s.offset + p) →
      ∀ t' : State, t' = { t with mem := t.mem.write (s.shBase j + s.offset + p) b } →
        exec .verify t' = .next { t' with core.status.matched := false, core.status.err := 0 }

/-- R217: after an ENCODE, whatever happened to the windows of missing shards, DECODE with at least `k` present shards gives
every shard back, under any unit. -/
def Obligations.DecodeRestoresEncodedShards : Prop :=
  ∀ s t u : State, Inv s → CodecReady s → overlapFree .decode s = true → exec .encode s = .next t →
    Inv u → u.core.cfg = s.core.cfg → u.core.em = s.core.em → u.core.off = s.core.off → u.core.cnt = s.core.cnt →
    (∀ i < s.shardCount, u.shBase i = s.shBase i ∧ u.shLen i = s.shLen i) →
    s.dataCount ≤ (presentShards u).length →
    (∀ i < s.shardCount, (u.shardAt i).present = true → ∀ p < s.count,
      u.mem.read (s.shBase i + s.offset + p) = t.mem.read (s.shBase i + s.offset + p)) →
    ∃ v, exec .decode u = .next v ∧ v.core.status.err = 0 ∧
      ∀ i < s.shardCount, ∀ p < s.count,
        v.mem.read (s.shBase i + s.offset + p) = t.mem.read (s.shBase i + s.offset + p)

/-- R218: ENCODE over a window is ENCODE over its two halves, one after the other. -/
def Obligations.EncodeWindowsAreIndependent : Prop :=
  ∀ (s t t₁ t₂ : State) (c₁ c₂ : Word), Inv s → CodecReady s → overlapFree .encode s = true →
    c₁.toNat + c₂.toNat = s.core.cnt.toNat → exec .encode s = .next t →
    exec .encode { s with core.cnt := c₁ } = .next t₁ →
    exec .encode { t₁ with core.off := s.core.off + c₁, core.cnt := c₂ } = .next t₂ →
    t₂.mem = t.mem

/-- R218: the `MATCH` of VERIFY over a window is the AND of the `MATCH` of its two halves, overlapping buffers or not. -/
def Obligations.VerifyWindowsAreConjoined : Prop :=
  ∀ (s : State) (c₁ c₂ : Word), CodecReady s → c₁.toNat + c₂.toNat = s.core.cnt.toNat → ∃ b₁ b₂ : Bool,
    exec .verify { s with core.cnt := c₁ } =
      .next { s with core.cnt := c₁, core.status.matched := b₁, core.status.err := 0 } ∧
    exec .verify { s with core.off := s.core.off + c₁, core.cnt := c₂ } =
      .next { s with core.off := s.core.off + c₁, core.cnt := c₂, core.status.matched := b₂, core.status.err := 0 } ∧
    exec .verify s = .next { s with core.status.matched := b₁ && b₂, core.status.err := 0 }

/-- R218: DECODE over a window is DECODE over its two halves, one after the other, whichever shards are missing. -/
def Obligations.DecodeWindowsAreIndependent : Prop :=
  ∀ (s t t₁ t₂ : State) (c₁ c₂ : Word), Inv s → CodecReady s → overlapFree .decode s = true →
    c₁.toNat + c₂.toNat = s.core.cnt.toNat → exec .decode s = .next t →
    exec .decode { s with core.cnt := c₁ } = .next t₁ →
    exec .decode { t₁ with core.off := s.core.off + c₁, core.cnt := c₂ } = .next t₂ →
    t₂.mem = t.mem

/-! ### The coding loops -/

/-- R257: on non-overlapping buffers every unit leaves the coded bytes in the output windows and nothing else changed, so
all twelve leave the same memory. -/
def Obligations.TwelveUnitsAreEquivalent : Prop :=
  ∀ (u : Fin 12) (c : CodeCall) (mem : Memory), mem.wf → 1 ≤ c.ins.length → nonOverlapping c = true →
    (∀ o < c.outs.length, ∀ p < c.cnt, outAddr c o p < 2 ^ 32) →
    (∀ o < c.outs.length, ∀ p < c.cnt, (runCode u c mem).read (outAddr c o p) = coded c mem o p) ∧
    (∀ a, (∀ o < c.outs.length, ∀ p < c.cnt, a ≠ outAddr c o p) → (runCode u c mem).read a = mem.read a) ∧
    ∀ u' : Fin 12, runCode u' c mem = runCode u c mem

/-- R242 to R256, R64: the iterations of a unit stand in the order of its loop nest, outermost loop first, each at its place; the
accesses of the unit are those of its iterations one after another, and its memory is what its iterations leave. So each unit
reads and writes the addresses of its windows, as often as its rule says, and reads an output byte back only where R243 does. -/
def Obligations.UnitAccessesAreThoseOfItsLoopNest : Prop :=
  ∀ (u : Fin 12) (c : CodeCall) (nin nout : Nat) (sts : List LoopStep), c.ins.length = nin → c.outs.length = nout →
    sts = schedule (unitOrder u) nin nout c.cnt →
    (u.val = 0 ∨ u.val = 1 → sts.length = c.cnt * nin * nout ∧
      ∀ p < c.cnt, ∀ i < nin, ∀ o < nout, sts[(p * nin + i) * nout + o]? = some (.rmw i o p)) ∧
    (u.val = 2 ∨ u.val = 3 → sts.length = c.cnt * nout ∧
      ∀ p < c.cnt, ∀ o < nout, sts[p * nout + o]? = some (.acc o p)) ∧
    (u.val = 4 ∨ u.val = 5 → sts.length = nin * c.cnt * nout ∧
      ∀ i < nin, ∀ p < c.cnt, ∀ o < nout, sts[(i * c.cnt + p) * nout + o]? = some (.rmw i o p)) ∧
    (u.val = 6 ∨ u.val = 7 → sts.length = nin * nout * c.cnt ∧
      ∀ i < nin, ∀ o < nout, ∀ p < c.cnt, sts[(i * nout + o) * c.cnt + p]? = some (.rmw i o p)) ∧
    (u.val = 8 ∨ u.val = 9 → sts.length = nout * c.cnt ∧
      ∀ o < nout, ∀ p < c.cnt, sts[o * c.cnt + p]? = some (.acc o p)) ∧
    (u.val = 10 ∨ u.val = 11 → sts.length = nout * nin * c.cnt ∧
      ∀ o < nout, ∀ i < nin, ∀ p < c.cnt, sts[(o * nin + i) * c.cnt + p]? = some (.rmw i o p)) ∧
    (∀ o p, stepAccesses c (.rmw 0 o p) = [.read (inAddr c 0 p), .write (outAddr c o p)]) ∧
    (∀ i o p, stepAccesses c (.rmw (i + 1) o p) =
      [.read (inAddr c (i + 1) p), .read (outAddr c o p), .write (outAddr c o p)]) ∧
    (∀ o p, (stepAccesses c (.acc o p)).length = nin + 1 ∧ (stepAccesses c (.acc o p))[nin]? = some (.write (outAddr c o p)) ∧
      ∀ i < nin, (stepAccesses c (.acc o p))[i]? = some (.read (inAddr c i p))) ∧
    runAccesses u c = sts.flatMap (stepAccesses c) ∧
    (∀ mem, runCode u c mem = sts.foldl (runStep (if u.val % 2 = 0 then mulT else mulX) c) mem) ∧
    (∀ x ∈ runAccesses u c,
      (∃ i < nin, ∃ p < c.cnt, x = .read (inAddr c i p)) ∨
      (∃ o < nout, ∃ p < c.cnt, x = .write (outAddr c o p)) ∨
      (readsOutputs u = true ∧ ∃ o < nout, ∃ p < c.cnt, x = .read (outAddr c o p))) ∧
    (1 ≤ nin → (runAccesses u c).length =
      if readsOutputs u then c.cnt * nin * nout + c.cnt * (nin - 1) * nout + c.cnt * nin * nout
      else c.cnt * nout * nin + c.cnt * nout)

/-- R259: a failing check of CODE or CHECK raises DimensionMismatch. -/
def Obligations.LoopCommandsShareChecks : Prop :=
  ∀ (ms : MatSrc) (nin nout : Nat) (s : State), ¬LoopReady ms nin nout s →
    exec (.code ms nin nout) s = .next { s with core.status.err := 2 } ∧
    exec (.check ms nin nout) s = .next { s with core.status.err := 2 }

/-- R260: CODE leaves the coded bytes in the output windows and changes nothing else. -/
def Obligations.CodeWritesCodedBytes : Prop :=
  ∀ (ms : MatSrc) (nin nout : Nat) (s : State), s.mem.wf → wellFormed (.code ms nin nout) = true → LoopReady ms nin nout s →
    overlapFree (.code ms nin nout) s = true → ∃ mem' : Memory,
    exec (.code ms nin nout) s = .next { s with mem := mem', core.status.err := 0 } ∧
    (∀ o < nout, ∀ p < s.count,
      mem'.read (s.shBase (s.selAt o).out.toNat + s.offset + p) = xorSum nin fun i =>
        gfMul (matAt (s.mat ms) (s.selAt o).row.toNat i) (s.mem.read (s.shBase (s.selAt i).inp.toNat + s.offset + p))) ∧
    ∀ a, (∀ o < nout, ∀ p < s.count, a ≠ s.shBase (s.selAt o).out.toNat + s.offset + p) → mem'.read a = s.mem.read a

/-- R261: CHECK sets `MATCH` to whether every to-check byte is the coded byte, overlapping buffers or not. -/
def Obligations.CheckComparesCodedBytes : Prop :=
  ∀ (ms : MatSrc) (nin nout : Nat) (s : State), LoopReady ms nin nout s → ∃ b : Bool,
    exec (.check ms nin nout) s = .next { s with core.status.matched := b, core.status.err := 0 } ∧
    (b = true ↔ ∀ o < nout, ∀ p < s.count,
      (xorSum nin fun i =>
        gfMul (matAt (s.mat ms) (s.selAt o).row.toNat i) (s.mem.read (s.shBase (s.selAt i).inp.toNat + s.offset + p))) =
      s.mem.read (s.shBase (s.selAt o).out.toNat + s.offset + p))

/-- The model's choice for overlapping buffers (log entry 3): CODE, ENCODE and DECODE run the selected unit's loop nest
literally, whatever the buffers, each iteration as R243 or R244 writes it. -/
def Obligations.OverlapRunsTheUnitLiterally : Prop :=
  (∀ (mul : Byte → Byte → Byte) (c : CodeCall) (mem : Memory) (i o p : Nat),
    runStep mul c mem (.rmw 0 o p) = mem.write (outAddr c o p) (mul (coeff c o 0) (mem.read (inAddr c 0 p))) ∧
    runStep mul c mem (.rmw (i + 1) o p) = mem.write (outAddr c o p)
      (mem.read (outAddr c o p) ^^^ mul (coeff c o (i + 1)) (mem.read (inAddr c (i + 1) p))) ∧
    runStep mul c mem (.acc o p) = mem.write (outAddr c o p)
      (xorSum c.ins.length fun j => mul (coeff c o j) (mem.read (inAddr c j p)))) ∧
  ∀ s : State,
    (∀ ms nin nout, LoopReady ms nin nout s → exec (.code ms nin nout) s = .next { s with
      mem := (schedule (unitOrder s.core.strat) nin nout s.count).foldl
               (runStep (unitMul s.core.strat) (loopCall ms nin nout s)) s.mem
      core.status.err := 0 }) ∧
    (CodecReady s → exec .encode s = .next { s with
      mem := (schedule (unitOrder s.core.strat) s.dataCount s.core.cfg.m.toNat s.count).foldl
               (runStep (unitMul s.core.strat) (parityCall s)) s.mem
      core.status.err := 0 }) ∧
    (CodecReady s → s.dataCount ≤ (presentShards s).length → (presentShards s).length < s.shardCount →
      ∀ D, decodeMatrix s = .ok D → exec .decode s = .next { s with
        mem := runCode s.core.strat (missingParityCall s) (runCode s.core.strat (dataCall s D) s.mem)
        core.status.err := 0 })

/-! ### The register port -/

/-- R24: the register map, and the offsets that are reserved. -/
def Obligations.PortMapIsTheTable : Prop :=
  (∀ (off : Nat) (loc : PortLoc), loc ≠ .reserved → (portLoc off = some loc ↔ portOffset loc = some off)) ∧
  (∀ off : Nat, portLoc off = some .reserved ↔ off % 4 = 0 ∧
    (0x0034 ≤ off ∧ off < 0x0040 ∨ 0x0080 ≤ off ∧ off < 0x0400 ∨ 0x0800 ≤ off ∧ off < 0x1000 ∨
      0x1000 ≤ off ∧ off < 0x2000 ∧ off % 16 = 12))

/-- R281: what a host write does at every location. -/
def Obligations.HostWriteTakesEffect : Prop :=
  ∀ (s s₀ : State) (v : Word) (rest : List HostTxn) (run : Nat → Host.Outcome State Fault Refusal),
    s₀ = { s with host.pending := rest } →
    (∀ off, run off = step { s with host.pending := .write off v :: rest }) →
    run 0x0000 = acceptCommand v s₀ ∧
    (∀ u : Fin 12, v.toNat = u.val → run 0x0008 = .next { s₀ with core.strat := u }) ∧
    (12 ≤ v.toNat → run 0x0008 = .next s₀) ∧
    run 0x000C = .next { s₀ with core.n := v } ∧
    run 0x0010 = .next { s₀ with core.off := v } ∧
    run 0x0014 = .next { s₀ with core.cnt := v } ∧
    run 0x0018 = .next { s₀ with core.maddr := v } ∧
    (∀ i : Fin 16, run (0x0040 + 4 * i.val) = .next { s₀ with core.x := s.core.x.set i (BitVec.ofNat 8 v.toNat) }) ∧
    (∀ (j : Fin 256) (e : SelEntry), e = SelEntry.mk (BitVec.ofNat 8 v.toNat) (BitVec.ofNat 8 (v.toNat / 2 ^ 8))
      (BitVec.ofNat 8 (v.toNat / 2 ^ 16)) →
      run (0x0400 + 4 * j.val) = .next { s₀ with core.sel := s.core.sel.set j e }) ∧
    (∀ (i : Fin 256) (e : Descriptor), e = Descriptor.mk v s.core.shard[i].len s.core.shard[i].present →
      run (0x1000 + 16 * i.val) = .next { s₀ with core.shard := s.core.shard.set i e }) ∧
    (∀ (i : Fin 256) (e : Descriptor), e = Descriptor.mk s.core.shard[i].base v s.core.shard[i].present →
      run (0x1004 + 16 * i.val) = .next { s₀ with core.shard := s.core.shard.set i e }) ∧
    (∀ (i : Fin 256) (e : Descriptor), e = Descriptor.mk s.core.shard[i].base s.core.shard[i].len (decide (v.toNat % 2 = 1)) →
      run (0x1008 + 16 * i.val) = .next { s₀ with core.shard := s.core.shard.set i e }) ∧
    (∀ off, off = 0x0004 ∨ off = 0x001C ∨ (∃ i : Fin 5, off = 0x0020 + 4 * i.val) ∨ portLoc off = some .reserved →
      run off = .next s₀)

/-- R282: what a host read returns at every location; it changes nothing. The record of replies is the model's (log entry 2). -/
def Obligations.HostReadReturnsTheValue : Prop :=
  ∀ (s : State) (rest : List HostTxn) (run : Nat → Host.Outcome State Fault Refusal)
    (returns : Nat → Host.Outcome State Fault Refusal), Inv s →
    (∀ off, run off = step { s with host.pending := .read off :: rest }) →
    (∀ n, returns n = .next { s with host.pending := rest, host.replies := BitVec.ofNat 32 n :: s.host.replies }) →
    run 0x0000 = returns 0 ∧
    run 0x0004 = returns (s.core.status.err.toNat + 8 * s.core.status.fatal.toNat + 16 * s.core.status.matched.toNat) ∧
    run 0x0008 = returns s.core.strat.val ∧
    run 0x000C = returns s.core.n.toNat ∧
    run 0x0010 = returns s.core.off.toNat ∧
    run 0x0014 = returns s.core.cnt.toNat ∧
    run 0x0018 = returns s.core.maddr.toNat ∧
    run 0x001C = returns (s.core.cfg.k.toNat + 2 ^ 8 * s.core.cfg.m.toNat + 2 ^ 16 * s.core.cfg.valid.toNat) ∧
    (∀ i : Fin 4, run (0x0020 + 4 * i.val) = returns (s.core.m[i].rows + 2 ^ 16 * s.core.m[i].cols)) ∧
    run 0x0030 = returns (s.core.em.rows + 2 ^ 16 * s.core.em.cols) ∧
    (∀ i : Fin 16, run (0x0040 + 4 * i.val) = returns s.core.x[i].toNat) ∧
    (∀ j : Fin 256, run (0x0400 + 4 * j.val) =
      returns (s.core.sel[j].inp.toNat + 2 ^ 8 * s.core.sel[j].out.toNat + 2 ^ 16 * s.core.sel[j].row.toNat)) ∧
    (∀ i : Fin 256, run (0x1000 + 16 * i.val) = returns s.core.shard[i].base.toNat) ∧
    (∀ i : Fin 256, run (0x1004 + 16 * i.val) = returns s.core.shard[i].len.toNat) ∧
    (∀ i : Fin 256, run (0x1008 + 16 * i.val) = returns s.core.shard[i].present.toNat) ∧
    (∀ off, portLoc off = some .reserved → run off = returns 0)

/-- R36, U2: an access that is not an aligned 32-bit one inside the window is refused (log entry 5). -/
def Obligations.UnspecifiedPortAccessIsRefused : Prop :=
  ∀ (s : State) (off bytes : Nat) (v : Word) (rest : List HostTxn),
    (off % 4 ≠ 0 ∨ 0x2000 ≤ off →
      step { s with host.pending := .write off v :: rest } = .refused .portAccessUnspecified ∧
      step { s with host.pending := .read off :: rest } = .refused .portAccessUnspecified) ∧
    step { s with host.pending := .oddAccess off bytes :: rest } = .refused .portAccessUnspecified

/-- R60, R71: a byte the host stores is the byte the host then loads, and no other byte changes. -/
def Obligations.HostStoreThenLoad : Prop :=
  ∀ (s : State) (a : Nat) (b : Byte) (rest : List HostTxn), s.mem.wf → a < 2 ^ 32 →
    s.host.pending = .memWrite a b :: .memRead a :: rest → ∃ t u : State,
      step s = .next t ∧ step t = .next u ∧ u.core = s.core ∧ u.host.pending = rest ∧
      u.host.replies = BitVec.ofNat 32 b.toNat :: s.host.replies ∧
      ∀ a', a' ≠ a → u.mem.read a' = s.mem.read a'

/-! ### Halt and reset -/

/-- R303: while the core is halted nothing but reset changes `STATUS`, and `CMD` writes change nothing at all. -/
def Obligations.HaltedUntilReset : Prop :=
  ∀ (s t : State) (x : HostTxn) (rest : List HostTxn), s.core.status.fatal = true → s.host.pending = x :: rest →
    step s = .next t →
    (x ≠ .reset → t.core.status = s.core.status) ∧
    (x = .reset → t.core.status.fatal = false) ∧
    ∀ w, x = .write 0 w → t = { s with host.pending := rest }

/-- R340, R42: reset gives every piece of the instance's state its value and leaves shard memory alone. -/
def Obligations.ResetSetsEveryRegister : Prop :=
  ∀ (s : State) (rest : List HostTxn), s.host.pending = .reset :: rest → ∃ t : State,
    step s = .next t ∧ t.core = State.reset.core ∧ t.mem = s.mem ∧
    (∀ i : Fin 16, t.core.x[i] = 0) ∧
    (∀ i : Fin 4, t.core.m[i].rows = 0 ∧ t.core.m[i].cols = 0 ∧ t.core.m[i].data = []) ∧
    t.core.em.rows = 0 ∧ t.core.em.cols = 0 ∧ t.core.em.data = [] ∧
    t.core.status.err = 0 ∧ t.core.status.fatal = false ∧ t.core.status.matched = false ∧
    t.core.strat = 0 ∧ t.core.n = 0 ∧ t.core.off = 0 ∧ t.core.cnt = 0 ∧ t.core.maddr = 0 ∧
    t.core.cfg.k = 0 ∧ t.core.cfg.m = 0 ∧ t.core.cfg.valid = false ∧
    (∀ j : Fin 256, t.core.sel[j].inp = 0 ∧ t.core.sel[j].out = 0 ∧ t.core.sel[j].row = 0) ∧
    ∀ i : Fin 256, t.core.shard[i].base = 0 ∧ t.core.shard[i].len = 0 ∧ t.core.shard[i].present = false

/-- R340, R195: nothing but reset empties `em` or clears `CFG.VALID`. -/
def Obligations.OnlyResetDropsTheCodec : Prop :=
  ∀ (s t : State) (x : HostTxn) (rest : List HostTxn), s.host.pending = x :: rest → x ≠ .reset → step s = .next t →
    (s.core.cfg.valid = true → t.core.cfg.valid = true) ∧ (s.core.em.rows ≠ 0 → t.core.em.rows ≠ 0)

/-! ### Invariants -/

/-- The reset state meets the invariant. -/
def Obligations.ResetMeetsInvariant : Prop := Inv State.reset ∧ Running State.reset

/-- R26, R37, R38, R300, R303, R60: every step keeps the invariant, from every state that meets it. -/
def Obligations.StepKeepsInvariant : Prop :=
  ∀ s t : State, Inv s → step s = .next t → Inv t

/-- R303, R196, R215: `FATAL` never fires: from every state that meets the invariant and is not halted, a step leads to one
that is not halted. -/
def Obligations.CoreNeverHalts : Prop :=
  ∀ s t : State, Inv s → Running s → step s = .next t → Running t

/-! ### Several instances -/

/-- R68: commands on two instances whose footprints are disjoint give one result in either order. A command is one step here
(log entry 7, the model's choice): the two sequential orders are compared, an interleaving of their accesses is not. -/
def Obligations.DisjointCommandsCommute : Prop :=
  ∀ (sys : System) (i j : Nat) (c d : CoreState) (w v : Word) (a b : Instr),
    i ≠ j → sys.cores[i]? = some c → sys.cores[j]? = some d → sys.mem.wf →
    c.status.fatal = false → d.status.fatal = false → decode w = .ok a → decode v = .ok b →
    footprintsDisjoint a (instanceState sys c) b (instanceState sys d) →
    ∃ s₁ s₂ t₁ : System, systemCommand i w sys = .next s₁ ∧ systemCommand j v s₁ = .next s₂ ∧
      systemCommand j v sys = .next t₁ ∧ systemCommand i w t₁ = .next s₂
end

