-- ==== Sys2Proof/Laws/Memory.lean ====
section
/-! SUPPORT. Shard memory: a read after a write, and the canonical form (R60). -/

namespace Sys2Proof.Machine

@[simp] theorem Memory.read_nil (a : Nat) : Memory.read [] a = memUnlisted := rfl

theorem Memory.read_cons (a : Nat) (b : Byte) (rest : Memory) (x : Nat) :
    Memory.read ((a, b) :: rest) x = if a = x then b else Memory.read rest x := rfl

theorem Memory.wf_nil : Memory.wf [] := ⟨List.Pairwise.nil, by simp⟩

/-- The canonical form of a nonempty memory, entry by entry. -/
theorem Memory.wf_cons {a : Nat} {b : Byte} {rest : Memory} :
    Memory.wf ((a, b) :: rest) ↔
      (∀ c ∈ rest, a < c.1) ∧ a < Config.memSize ∧ b ≠ memUnlisted ∧ Memory.wf rest := by
  simp only [Memory.wf, List.pairwise_cons, List.mem_cons, forall_eq_or_imp]
  tauto

/-- An address that no entry lists reads as an unlisted one. -/
theorem Memory.read_of_not_listed {mem : Memory} {x : Nat} (h : ∀ c ∈ mem, c.1 ≠ x) : Memory.read mem x = memUnlisted := by
  induction mem with
  | nil => rfl
  | cons c rest ih =>
    obtain ⟨a, b⟩ := c
    rw [Memory.read_cons, if_neg (h (a, b) (by simp))]
    exact ih fun c hc => h c (List.mem_cons_of_mem _ hc)

/-- Below the first entry of a canonical memory nothing is listed. -/
theorem Memory.read_below {mem : Memory} {x : Nat} (h : ∀ c ∈ mem, x < c.1) : Memory.read mem x = memUnlisted :=
  Memory.read_of_not_listed fun c hc => Nat.ne_of_gt (h c hc)

/-- A write leaves every other address alone, in any memory. -/
theorem Memory.read_write_of_ne (mem : Memory) {x y : Nat} (v : Byte) (h : y ≠ x) :
    (Memory.write mem x v).read y = Memory.read mem y := by
  induction mem with
  | nil =>
    unfold Memory.write
    split
    · rfl
    · simp [Memory.read_cons, Ne.symm h]
  | cons c rest ih =>
    obtain ⟨a, b⟩ := c
    unfold Memory.write
    split
    · split
      · rfl
      · simp [Memory.read_cons, Ne.symm h]
    · split
      · rename_i _ hxa
        subst hxa
        split <;> simp [Memory.read_cons, Ne.symm h]
      · simp [Memory.read_cons, ih]

/-- A read returns the byte most recently written (R60). -/
theorem Memory.read_write_same {mem : Memory} (hm : Memory.wf mem) (x : Nat) (v : Byte) :
    (Memory.write mem x v).read x = v := by
  induction mem with
  | nil =>
    unfold Memory.write
    split
    · rename_i hv; simp [hv]
    · simp [Memory.read_cons]
  | cons c rest ih =>
    obtain ⟨a, b⟩ := c
    obtain ⟨hlt, -, -, hrest⟩ := Memory.wf_cons.mp hm
    unfold Memory.write
    split
    · rename_i hxa
      split
      · rename_i hv
        rw [hv]
        refine Memory.read_below fun c hc => ?_
        rcases List.mem_cons.mp hc with rfl | hc
        · exact hxa
        · exact Nat.lt_trans hxa (hlt c hc)
      · simp [Memory.read_cons]
    · split
      · rename_i _ hxa
        split
        · rename_i hv
          rw [hv, hxa]
          exact Memory.read_below hlt
        · simp [Memory.read_cons]
      · rename_i h1 h2
        simp [Memory.read_cons, Ne.symm h2, ih hrest]

/-- Every entry of a memory after a write is the written one or an old one. -/
theorem Memory.mem_write {mem : Memory} {x : Nat} {v : Byte} {c : Host.Cell} (h : c ∈ Memory.write mem x v) :
    c = (x, v) ∧ v ≠ memUnlisted ∨ c ∈ mem := by
  induction mem with
  | nil =>
    unfold Memory.write at h
    split at h <;> simp_all
  | cons d rest ih =>
    obtain ⟨a, b⟩ := d
    unfold Memory.write at h
    split at h
    · split at h
      · exact .inr h
      · rcases List.mem_cons.mp h with rfl | h
        · exact .inl ⟨rfl, ‹_›⟩
        · exact .inr h
    · split at h
      · split at h
        · exact .inr (List.mem_cons_of_mem _ h)
        · rcases List.mem_cons.mp h with rfl | h
          · exact .inl ⟨rfl, ‹_›⟩
          · exact .inr (List.mem_cons_of_mem _ h)
      · rcases List.mem_cons.mp h with rfl | h
        · exact .inr (by simp)
        · exact (ih h).imp id (List.mem_cons_of_mem _)

/-- A write inside the address space keeps the canonical form. -/
theorem Memory.write_wf {mem : Memory} (hm : Memory.wf mem) {x : Nat} (hx : x < Config.memSize) (v : Byte) :
    (Memory.write mem x v).wf := by
  induction mem with
  | nil =>
    unfold Memory.write
    split
    · exact Memory.wf_nil
    · exact Memory.wf_cons.mpr ⟨by simp, hx, ‹_›, Memory.wf_nil⟩
  | cons c rest ih =>
    obtain ⟨a, b⟩ := c
    obtain ⟨hlt, ha, hb, hrest⟩ := Memory.wf_cons.mp hm
    unfold Memory.write
    split
    · rename_i hxa
      split
      · exact hm
      · refine Memory.wf_cons.mpr ⟨fun c hc => ?_, hx, ‹_›, hm⟩
        rcases List.mem_cons.mp hc with rfl | hc
        · exact hxa
        · exact Nat.lt_trans hxa (hlt c hc)
    · split
      · rename_i _ hxa
        split
        · exact hrest
        · exact Memory.wf_cons.mpr ⟨fun c hc => hxa ▸ hlt c hc, hx, ‹_›, hrest⟩
      · rename_i h1 h2
        refine Memory.wf_cons.mpr ⟨fun c hc => ?_, ha, hb, ih hrest⟩
        rcases Memory.mem_write hc with ⟨rfl, -⟩ | hc
        · exact Nat.lt_of_le_of_ne (Nat.le_of_not_lt h1) (Ne.symm h2)
        · exact hlt c hc

/-- Canonical memories that read alike are equal. -/
theorem Memory.ext_of_read {mem₁ mem₂ : Memory} (h₁ : Memory.wf mem₁) (h₂ : Memory.wf mem₂)
    (h : ∀ a, Memory.read mem₁ a = Memory.read mem₂ a) : mem₁ = mem₂ := by
  induction mem₁ generalizing mem₂ with
  | nil =>
    cases mem₂ with
    | nil => rfl
    | cons c rest =>
      obtain ⟨a, b⟩ := c
      have := h a
      simp [Memory.read_cons] at this
      exact absurd this.symm (Memory.wf_cons.mp h₂).2.2.1
  | cons c rest ih =>
    obtain ⟨a, b⟩ := c
    obtain ⟨hlt, -, hb, hrest⟩ := Memory.wf_cons.mp h₁
    cases mem₂ with
    | nil =>
      have := h a
      simp [Memory.read_cons] at this
      exact absurd this hb
    | cons c' rest' =>
      obtain ⟨a', b'⟩ := c'
      obtain ⟨hlt', -, hb', hrest'⟩ := Memory.wf_cons.mp h₂
      have haa : a = a' := by
        rcases Nat.lt_trichotomy a a' with hlt2 | heq | hlt2
        · have := h a
          rw [Memory.read_cons, if_pos rfl, Memory.read_cons, if_neg (Nat.ne_of_gt hlt2),
            Memory.read_below fun c hc => Nat.lt_trans hlt2 (hlt' c hc)] at this
          exact absurd this hb
        · exact heq
        · have := h a'
          rw [Memory.read_cons, if_neg (Nat.ne_of_gt hlt2), Memory.read_cons, if_pos rfl,
            Memory.read_below fun c hc => Nat.lt_trans hlt2 (hlt c hc)] at this
          exact absurd this.symm hb'
      subst haa
      have hbb : b = b' := by simpa [Memory.read_cons] using h a
      subst hbb
      rw [ih hrest hrest' fun x => ?_]
      by_cases hx : a = x
      · subst hx
        rw [Memory.read_below hlt, Memory.read_below hlt']
      · simpa [Memory.read_cons, hx] using h x

/-- Bytes stored one after another change no address outside their range. -/
theorem Memory.read_writeBytes_outside (mem : Memory) (addr : Nat) (bytes : List Byte) {x : Nat}
    (h : x < addr ∨ addr + bytes.length ≤ x) : (mem.writeBytes addr bytes).read x = Memory.read mem x := by
  induction bytes generalizing mem addr with
  | nil => rfl
  | cons b rest ih =>
    simp only [List.length_cons] at h
    rw [Memory.writeBytes, ih _ _ (by omega), Memory.read_write_of_ne _ _ (by omega)]

/-- Bytes stored one after another inside the address space keep the canonical form. -/
theorem Memory.writeBytes_wf {mem : Memory} (hm : Memory.wf mem) (addr : Nat) (bytes : List Byte)
    (h : addr + bytes.length ≤ Config.memSize) : (mem.writeBytes addr bytes).wf := by
  induction bytes generalizing mem addr with
  | nil => exact hm
  | cons b rest ih =>
    simp only [List.length_cons] at h
    exact ih (Memory.write_wf hm (by omega) b) _ (by omega)

/-- The byte at each place of a stored list. -/
theorem Memory.read_writeBytes_inside {mem : Memory} (hm : Memory.wf mem) (addr : Nat) (bytes : List Byte) {j : Nat}
    (hj : j < bytes.length) (h : addr + bytes.length ≤ Config.memSize) :
    (mem.writeBytes addr bytes).read (addr + j) = bytes[j] := by
  induction bytes generalizing mem addr j with
  | nil => simp at hj
  | cons b rest ih =>
    simp only [List.length_cons] at h hj
    cases j with
    | zero =>
      rw [Memory.writeBytes, Memory.read_writeBytes_outside _ _ _ (by omega)]
      exact Memory.read_write_same hm _ _
    | succ j =>
      rw [Memory.writeBytes, show addr + (j + 1) = addr + 1 + j by omega,
        ih (Memory.write_wf hm (by omega) b) _ (by omega) (by omega)]
      rfl

end Sys2Proof.Machine
end

