-- ==== Sys2Proof/Laws/CodingLoop.lean ====
section
/-! SUPPORT. What a unit's run leaves alone, that it keeps the canonical form (R241), and where an entry of a loop nest stands. -/

namespace Sys2Proof.Machine

/-- The output byte that an iteration writes. -/
def stepTarget (c : CodeCall) : LoopStep → Nat
  | .rmw _ o p => outAddr c o p
  | .acc o p => outAddr c o p

/-- An iteration writes one byte, its target. -/
theorem runStep_eq_write (mul : Byte → Byte → Byte) (c : CodeCall) (mem : Memory) (st : LoopStep) :
    ∃ v, runStep mul c mem st = mem.write (stepTarget c st) v := by
  cases st with
  | rmw i o p =>
    unfold runStep stepRmw stepTarget
    dsimp only
    split <;> exact ⟨_, rfl⟩
  | acc o p => exact ⟨_, rfl⟩

/-- A sequence of iterations leaves every byte alone that is no iteration's target. -/
theorem runSteps_read (mul : Byte → Byte → Byte) (c : CodeCall) (sts : List LoopStep) (mem : Memory) {a : Nat}
    (h : ∀ st ∈ sts, stepTarget c st ≠ a) : (sts.foldl (runStep mul c) mem).read a = mem.read a := by
  induction sts generalizing mem with
  | nil => rfl
  | cons st rest ih =>
    rw [List.foldl_cons, ih _ fun st hst => h st (List.mem_cons_of_mem _ hst)]
    obtain ⟨v, hv⟩ := runStep_eq_write mul c mem st
    rw [hv, Memory.read_write_of_ne _ _ (Ne.symm (h st (by simp)))]

/-- A sequence of iterations whose targets lie in the address space keeps the canonical form. -/
theorem runSteps_wf (mul : Byte → Byte → Byte) (c : CodeCall) (sts : List LoopStep) {mem : Memory} (hm : mem.wf)
    (h : ∀ st ∈ sts, stepTarget c st < Config.memSize) : Memory.wf (sts.foldl (runStep mul c) mem) := by
  induction sts generalizing mem with
  | nil => exact hm
  | cons st rest ih =>
    rw [List.foldl_cons]
    refine ih ?_ fun st hst => h st (List.mem_cons_of_mem _ hst)
    obtain ⟨v, hv⟩ := runStep_eq_write mul c mem st
    rw [hv]
    exact Memory.write_wf hm (h st (by simp)) v

/-- Every iteration of every loop nest is at an output and a byte position in range. -/
theorem schedule_range {order : LoopOrder} {nin nout cnt : Nat} {st : LoopStep} (h : st ∈ schedule order nin nout cnt) :
    ∃ o p, o < nout ∧ p < cnt ∧ (st = .acc o p ∨ ∃ i < nin, st = .rmw i o p) := by
  cases order <;> simp only [schedule, List.mem_flatMap, List.mem_map, List.mem_range] at h
  · obtain ⟨p, hp, i, hi, o, ho, rfl⟩ := h
    exact ⟨o, p, ho, hp, .inr ⟨i, hi, rfl⟩⟩
  · obtain ⟨p, hp, o, ho, rfl⟩ := h
    exact ⟨o, p, ho, hp, .inl rfl⟩
  · obtain ⟨i, hi, p, hp, o, ho, rfl⟩ := h
    exact ⟨o, p, ho, hp, .inr ⟨i, hi, rfl⟩⟩
  · obtain ⟨i, hi, o, ho, p, hp, rfl⟩ := h
    exact ⟨o, p, ho, hp, .inr ⟨i, hi, rfl⟩⟩
  · obtain ⟨o, ho, p, hp, rfl⟩ := h
    exact ⟨o, p, ho, hp, .inl rfl⟩
  · obtain ⟨o, ho, i, hi, p, hp, rfl⟩ := h
    exact ⟨o, p, ho, hp, .inr ⟨i, hi, rfl⟩⟩

/-- The target of every iteration of a run is an output byte of the window. -/
theorem schedule_target {c : CodeCall} {order : LoopOrder} {st : LoopStep}
    (h : st ∈ schedule order c.ins.length c.outs.length c.cnt) :
    ∃ o p, o < c.outs.length ∧ p < c.cnt ∧ stepTarget c st = outAddr c o p := by
  obtain ⟨o, p, ho, hp, rfl | ⟨i, -, rfl⟩⟩ := schedule_range h <;> exact ⟨o, p, ho, hp, rfl⟩

/-- A unit's run changes no byte outside the output windows (R241), overlapping buffers or not. -/
theorem runCode_read_outside (u : Fin 12) (c : CodeCall) (mem : Memory) {a : Nat}
    (h : ∀ o p, o < c.outs.length → p < c.cnt → outAddr c o p ≠ a) : (runCode u c mem).read a = mem.read a := by
  refine runSteps_read _ _ _ _ fun st hst => ?_
  obtain ⟨o, p, ho, hp, heq⟩ := schedule_target hst
  exact heq ▸ h o p ho hp

/-- A unit's run over output windows inside the address space keeps the canonical form. -/
theorem runCode_wf (u : Fin 12) (c : CodeCall) {mem : Memory} (hm : mem.wf)
    (h : ∀ o p, o < c.outs.length → p < c.cnt → outAddr c o p < Config.memSize) : (runCode u c mem).wf := by
  refine runSteps_wf _ _ _ hm fun st hst => ?_
  obtain ⟨o, p, ho, hp, heq⟩ := schedule_target hst
  exact heq ▸ h o p ho hp

/-- With an empty window a run performs no access (R241, D37). -/
theorem runCode_cnt_zero (u : Fin 12) (c : CodeCall) (mem : Memory) (h : c.cnt = 0) : runCode u c mem = mem := by
  have : schedule (unitOrder u) c.ins.length c.outs.length c.cnt = [] := by
    rw [List.eq_nil_iff_forall_not_mem]
    intro st hst
    obtain ⟨o, p, -, hp, -⟩ := schedule_range hst
    omega
  simp [runCode, this]

/-! ### Loop nests as lists: the outer loop's entries are blocks of one length -/

/-- A loop of `n` blocks of `m` entries has `n * m` entries. -/
theorem length_flatMap_range {α : Type} {n m : Nat} {f : Nat → List α} (hf : ∀ i < n, (f i).length = m) :
    ((List.range n).flatMap f).length = n * m := by
  induction n with
  | zero => simp
  | succ n ih =>
    rw [List.range_succ, List.flatMap_append, List.length_append, ih fun i hi => hf i (by omega)]
    simp [hf n (by omega), Nat.succ_mul]

/-- Entry `j` of block `i` stands at `i * m + j`. -/
theorem getElem?_flatMap_range {α : Type} {n m : Nat} {f : Nat → List α} (hf : ∀ i < n, (f i).length = m) {i j : Nat}
    (hi : i < n) (hj : j < m) : ((List.range n).flatMap f)[i * m + j]? = (f i)[j]? := by
  induction n with
  | zero => omega
  | succ n ih =>
    have hlen := length_flatMap_range fun i (hi : i < n) => hf i (Nat.lt_succ_of_lt hi)
    rw [List.range_succ, List.flatMap_append]
    by_cases h : i < n
    · have hlt : i * m + j < n * m := by
        have := Nat.mul_le_mul_right m (Nat.succ_le_of_lt h)
        rw [Nat.succ_mul] at this
        omega
      rw [List.getElem?_append_left (by omega), ih (fun i hi => hf i (by omega)) h]
    · obtain rfl : i = n := by omega
      rw [List.getElem?_append_right (by omega), hlen]
      simp

/-- Two nested loops: how many entries, and where each stands. -/
theorem loopNest_two {α : Type} {a b : Nat} (f : Nat → Nat → α) :
    ((List.range a).flatMap fun x => (List.range b).map fun y => f x y).length = a * b ∧
    ∀ x < a, ∀ y < b, ((List.range a).flatMap fun x => (List.range b).map fun y => f x y)[x * b + y]? = some (f x y) := by
  have hf : ∀ x < a, ((List.range b).map fun y => f x y).length = b := fun x _ => by simp
  exact ⟨length_flatMap_range hf, fun x hx y hy => by rw [getElem?_flatMap_range hf hx hy]; simp [hy]⟩

/-- Three nested loops: how many entries, and where each stands. -/
theorem loopNest_three {α : Type} {a b d : Nat} (f : Nat → Nat → Nat → α) :
    ((List.range a).flatMap fun x => (List.range b).flatMap fun y => (List.range d).map fun z => f x y z).length = a * b * d ∧
    ∀ x < a, ∀ y < b, ∀ z < d,
      ((List.range a).flatMap fun x => (List.range b).flatMap fun y =>
        (List.range d).map fun z => f x y z)[(x * b + y) * d + z]? = some (f x y z) := by
  have hf : ∀ x < a, ((List.range b).flatMap fun y => (List.range d).map fun z => f x y z).length = b * d :=
    fun x _ => (loopNest_two (f x)).1
  refine ⟨(length_flatMap_range hf).trans (Nat.mul_assoc ..).symm, fun x hx y hy z hz => ?_⟩
  have hlt : y * d + z < b * d := by
    have := Nat.mul_le_mul_right d (Nat.succ_le_of_lt hy)
    rw [Nat.succ_mul] at this
    omega
  rw [Nat.add_mul, Nat.mul_assoc, Nat.add_assoc, getElem?_flatMap_range hf hx hlt]
  exact (loopNest_two (f x)).2 y hy z hz

end Sys2Proof.Machine
end

