-- ==== Sys2Proof/Laws/State.lean ====
section
/-! SUPPORT. What each update of the state does to each of its fields, by rfl. -/

namespace Sys2Proof.Machine

/-! ### setErr -/

@[simp] theorem State.setErr_x (s : State) (e : BitVec 3) : (s.setErr e).core.x = s.core.x := rfl
@[simp] theorem State.setErr_m (s : State) (e : BitVec 3) : (s.setErr e).core.m = s.core.m := rfl
@[simp] theorem State.setErr_em (s : State) (e : BitVec 3) : (s.setErr e).core.em = s.core.em := rfl
@[simp] theorem State.setErr_err (s : State) (e : BitVec 3) : (s.setErr e).core.status.err = e := rfl
@[simp] theorem State.setErr_fatal (s : State) (e : BitVec 3) : (s.setErr e).core.status.fatal = s.core.status.fatal := rfl
@[simp] theorem State.setErr_matched (s : State) (e : BitVec 3) : (s.setErr e).core.status.matched = s.core.status.matched := rfl
@[simp] theorem State.setErr_strat (s : State) (e : BitVec 3) : (s.setErr e).core.strat = s.core.strat := rfl
@[simp] theorem State.setErr_n (s : State) (e : BitVec 3) : (s.setErr e).core.n = s.core.n := rfl
@[simp] theorem State.setErr_off (s : State) (e : BitVec 3) : (s.setErr e).core.off = s.core.off := rfl
@[simp] theorem State.setErr_cnt (s : State) (e : BitVec 3) : (s.setErr e).core.cnt = s.core.cnt := rfl
@[simp] theorem State.setErr_maddr (s : State) (e : BitVec 3) : (s.setErr e).core.maddr = s.core.maddr := rfl
@[simp] theorem State.setErr_cfg (s : State) (e : BitVec 3) : (s.setErr e).core.cfg = s.core.cfg := rfl
@[simp] theorem State.setErr_sel (s : State) (e : BitVec 3) : (s.setErr e).core.sel = s.core.sel := rfl
@[simp] theorem State.setErr_shard (s : State) (e : BitVec 3) : (s.setErr e).core.shard = s.core.shard := rfl
@[simp] theorem State.setErr_mem (s : State) (e : BitVec 3) : (s.setErr e).mem = s.mem := rfl
@[simp] theorem State.setErr_host (s : State) (e : BitVec 3) : (s.setErr e).host = s.host := rfl

/-! ### setFatal -/

@[simp] theorem State.setFatal_x (s : State) : (s.setFatal).core.x = s.core.x := rfl
@[simp] theorem State.setFatal_m (s : State) : (s.setFatal).core.m = s.core.m := rfl
@[simp] theorem State.setFatal_em (s : State) : (s.setFatal).core.em = s.core.em := rfl
@[simp] theorem State.setFatal_err (s : State) : (s.setFatal).core.status.err = s.core.status.err := rfl
@[simp] theorem State.setFatal_fatal (s : State) : (s.setFatal).core.status.fatal = true := rfl
@[simp] theorem State.setFatal_matched (s : State) : (s.setFatal).core.status.matched = s.core.status.matched := rfl
@[simp] theorem State.setFatal_strat (s : State) : (s.setFatal).core.strat = s.core.strat := rfl
@[simp] theorem State.setFatal_n (s : State) : (s.setFatal).core.n = s.core.n := rfl
@[simp] theorem State.setFatal_off (s : State) : (s.setFatal).core.off = s.core.off := rfl
@[simp] theorem State.setFatal_cnt (s : State) : (s.setFatal).core.cnt = s.core.cnt := rfl
@[simp] theorem State.setFatal_maddr (s : State) : (s.setFatal).core.maddr = s.core.maddr := rfl
@[simp] theorem State.setFatal_cfg (s : State) : (s.setFatal).core.cfg = s.core.cfg := rfl
@[simp] theorem State.setFatal_sel (s : State) : (s.setFatal).core.sel = s.core.sel := rfl
@[simp] theorem State.setFatal_shard (s : State) : (s.setFatal).core.shard = s.core.shard := rfl
@[simp] theorem State.setFatal_mem (s : State) : (s.setFatal).mem = s.mem := rfl
@[simp] theorem State.setFatal_host (s : State) : (s.setFatal).host = s.host := rfl

/-! ### setMatch -/

@[simp] theorem State.setMatch_x (s : State) (b : Bool) : (s.setMatch b).core.x = s.core.x := rfl
@[simp] theorem State.setMatch_m (s : State) (b : Bool) : (s.setMatch b).core.m = s.core.m := rfl
@[simp] theorem State.setMatch_em (s : State) (b : Bool) : (s.setMatch b).core.em = s.core.em := rfl
@[simp] theorem State.setMatch_err (s : State) (b : Bool) : (s.setMatch b).core.status.err = s.core.status.err := rfl
@[simp] theorem State.setMatch_fatal (s : State) (b : Bool) : (s.setMatch b).core.status.fatal = s.core.status.fatal := rfl
@[simp] theorem State.setMatch_matched (s : State) (b : Bool) : (s.setMatch b).core.status.matched = b := rfl
@[simp] theorem State.setMatch_strat (s : State) (b : Bool) : (s.setMatch b).core.strat = s.core.strat := rfl
@[simp] theorem State.setMatch_n (s : State) (b : Bool) : (s.setMatch b).core.n = s.core.n := rfl
@[simp] theorem State.setMatch_off (s : State) (b : Bool) : (s.setMatch b).core.off = s.core.off := rfl
@[simp] theorem State.setMatch_cnt (s : State) (b : Bool) : (s.setMatch b).core.cnt = s.core.cnt := rfl
@[simp] theorem State.setMatch_maddr (s : State) (b : Bool) : (s.setMatch b).core.maddr = s.core.maddr := rfl
@[simp] theorem State.setMatch_cfg (s : State) (b : Bool) : (s.setMatch b).core.cfg = s.core.cfg := rfl
@[simp] theorem State.setMatch_sel (s : State) (b : Bool) : (s.setMatch b).core.sel = s.core.sel := rfl
@[simp] theorem State.setMatch_shard (s : State) (b : Bool) : (s.setMatch b).core.shard = s.core.shard := rfl
@[simp] theorem State.setMatch_mem (s : State) (b : Bool) : (s.setMatch b).mem = s.mem := rfl
@[simp] theorem State.setMatch_host (s : State) (b : Bool) : (s.setMatch b).host = s.host := rfl

/-! ### setMem -/

@[simp] theorem State.setMem_x (s : State) (mem : Memory) : (s.setMem mem).core.x = s.core.x := rfl
@[simp] theorem State.setMem_m (s : State) (mem : Memory) : (s.setMem mem).core.m = s.core.m := rfl
@[simp] theorem State.setMem_em (s : State) (mem : Memory) : (s.setMem mem).core.em = s.core.em := rfl
@[simp] theorem State.setMem_err (s : State) (mem : Memory) : (s.setMem mem).core.status.err = s.core.status.err := rfl
@[simp] theorem State.setMem_fatal (s : State) (mem : Memory) : (s.setMem mem).core.status.fatal = s.core.status.fatal := rfl
@[simp] theorem State.setMem_matched (s : State) (mem : Memory) : (s.setMem mem).core.status.matched = s.core.status.matched := rfl
@[simp] theorem State.setMem_strat (s : State) (mem : Memory) : (s.setMem mem).core.strat = s.core.strat := rfl
@[simp] theorem State.setMem_n (s : State) (mem : Memory) : (s.setMem mem).core.n = s.core.n := rfl
@[simp] theorem State.setMem_off (s : State) (mem : Memory) : (s.setMem mem).core.off = s.core.off := rfl
@[simp] theorem State.setMem_cnt (s : State) (mem : Memory) : (s.setMem mem).core.cnt = s.core.cnt := rfl
@[simp] theorem State.setMem_maddr (s : State) (mem : Memory) : (s.setMem mem).core.maddr = s.core.maddr := rfl
@[simp] theorem State.setMem_cfg (s : State) (mem : Memory) : (s.setMem mem).core.cfg = s.core.cfg := rfl
@[simp] theorem State.setMem_sel (s : State) (mem : Memory) : (s.setMem mem).core.sel = s.core.sel := rfl
@[simp] theorem State.setMem_shard (s : State) (mem : Memory) : (s.setMem mem).core.shard = s.core.shard := rfl
@[simp] theorem State.setMem_mem (s : State) (mem : Memory) : (s.setMem mem).mem = mem := rfl
@[simp] theorem State.setMem_host (s : State) (mem : Memory) : (s.setMem mem).host = s.host := rfl

/-! ### writeX -/

@[simp] theorem State.writeX_x (s : State) (i : Fin 16) (v : Byte) : (s.writeX i v).core.x = s.core.x.set i v := rfl
@[simp] theorem State.writeX_m (s : State) (i : Fin 16) (v : Byte) : (s.writeX i v).core.m = s.core.m := rfl
@[simp] theorem State.writeX_em (s : State) (i : Fin 16) (v : Byte) : (s.writeX i v).core.em = s.core.em := rfl
@[simp] theorem State.writeX_err (s : State) (i : Fin 16) (v : Byte) : (s.writeX i v).core.status.err = s.core.status.err := rfl
@[simp] theorem State.writeX_fatal (s : State) (i : Fin 16) (v : Byte) : (s.writeX i v).core.status.fatal = s.core.status.fatal := rfl
@[simp] theorem State.writeX_matched (s : State) (i : Fin 16) (v : Byte) : (s.writeX i v).core.status.matched = s.core.status.matched := rfl
@[simp] theorem State.writeX_strat (s : State) (i : Fin 16) (v : Byte) : (s.writeX i v).core.strat = s.core.strat := rfl
@[simp] theorem State.writeX_n (s : State) (i : Fin 16) (v : Byte) : (s.writeX i v).core.n = s.core.n := rfl
@[simp] theorem State.writeX_off (s : State) (i : Fin 16) (v : Byte) : (s.writeX i v).core.off = s.core.off := rfl
@[simp] theorem State.writeX_cnt (s : State) (i : Fin 16) (v : Byte) : (s.writeX i v).core.cnt = s.core.cnt := rfl
@[simp] theorem State.writeX_maddr (s : State) (i : Fin 16) (v : Byte) : (s.writeX i v).core.maddr = s.core.maddr := rfl
@[simp] theorem State.writeX_cfg (s : State) (i : Fin 16) (v : Byte) : (s.writeX i v).core.cfg = s.core.cfg := rfl
@[simp] theorem State.writeX_sel (s : State) (i : Fin 16) (v : Byte) : (s.writeX i v).core.sel = s.core.sel := rfl
@[simp] theorem State.writeX_shard (s : State) (i : Fin 16) (v : Byte) : (s.writeX i v).core.shard = s.core.shard := rfl
@[simp] theorem State.writeX_mem (s : State) (i : Fin 16) (v : Byte) : (s.writeX i v).mem = s.mem := rfl
@[simp] theorem State.writeX_host (s : State) (i : Fin 16) (v : Byte) : (s.writeX i v).host = s.host := rfl

/-! ### writeM -/

@[simp] theorem State.writeM_x (s : State) (i : Fin 4) (A : Matrix) : (s.writeM i A).core.x = s.core.x := rfl
@[simp] theorem State.writeM_m (s : State) (i : Fin 4) (A : Matrix) : (s.writeM i A).core.m = s.core.m.set i A := rfl
@[simp] theorem State.writeM_em (s : State) (i : Fin 4) (A : Matrix) : (s.writeM i A).core.em = s.core.em := rfl
@[simp] theorem State.writeM_err (s : State) (i : Fin 4) (A : Matrix) : (s.writeM i A).core.status.err = s.core.status.err := rfl
@[simp] theorem State.writeM_fatal (s : State) (i : Fin 4) (A : Matrix) : (s.writeM i A).core.status.fatal = s.core.status.fatal := rfl
@[simp] theorem State.writeM_matched (s : State) (i : Fin 4) (A : Matrix) : (s.writeM i A).core.status.matched = s.core.status.matched := rfl
@[simp] theorem State.writeM_strat (s : State) (i : Fin 4) (A : Matrix) : (s.writeM i A).core.strat = s.core.strat := rfl
@[simp] theorem State.writeM_n (s : State) (i : Fin 4) (A : Matrix) : (s.writeM i A).core.n = s.core.n := rfl
@[simp] theorem State.writeM_off (s : State) (i : Fin 4) (A : Matrix) : (s.writeM i A).core.off = s.core.off := rfl
@[simp] theorem State.writeM_cnt (s : State) (i : Fin 4) (A : Matrix) : (s.writeM i A).core.cnt = s.core.cnt := rfl
@[simp] theorem State.writeM_maddr (s : State) (i : Fin 4) (A : Matrix) : (s.writeM i A).core.maddr = s.core.maddr := rfl
@[simp] theorem State.writeM_cfg (s : State) (i : Fin 4) (A : Matrix) : (s.writeM i A).core.cfg = s.core.cfg := rfl
@[simp] theorem State.writeM_sel (s : State) (i : Fin 4) (A : Matrix) : (s.writeM i A).core.sel = s.core.sel := rfl
@[simp] theorem State.writeM_shard (s : State) (i : Fin 4) (A : Matrix) : (s.writeM i A).core.shard = s.core.shard := rfl
@[simp] theorem State.writeM_mem (s : State) (i : Fin 4) (A : Matrix) : (s.writeM i A).mem = s.mem := rfl
@[simp] theorem State.writeM_host (s : State) (i : Fin 4) (A : Matrix) : (s.writeM i A).host = s.host := rfl

/-! ### writeCodec -/

@[simp] theorem State.writeCodec_x (s : State) (k m : Nat) (E : Matrix) : (s.writeCodec k m E).core.x = s.core.x := rfl
@[simp] theorem State.writeCodec_m (s : State) (k m : Nat) (E : Matrix) : (s.writeCodec k m E).core.m = s.core.m := rfl
@[simp] theorem State.writeCodec_em (s : State) (k m : Nat) (E : Matrix) : (s.writeCodec k m E).core.em = E := rfl
@[simp] theorem State.writeCodec_err (s : State) (k m : Nat) (E : Matrix) : (s.writeCodec k m E).core.status.err = s.core.status.err := rfl
@[simp] theorem State.writeCodec_fatal (s : State) (k m : Nat) (E : Matrix) : (s.writeCodec k m E).core.status.fatal = s.core.status.fatal := rfl
@[simp] theorem State.writeCodec_matched (s : State) (k m : Nat) (E : Matrix) : (s.writeCodec k m E).core.status.matched = s.core.status.matched := rfl
@[simp] theorem State.writeCodec_strat (s : State) (k m : Nat) (E : Matrix) : (s.writeCodec k m E).core.strat = s.core.strat := rfl
@[simp] theorem State.writeCodec_n (s : State) (k m : Nat) (E : Matrix) : (s.writeCodec k m E).core.n = s.core.n := rfl
@[simp] theorem State.writeCodec_off (s : State) (k m : Nat) (E : Matrix) : (s.writeCodec k m E).core.off = s.core.off := rfl
@[simp] theorem State.writeCodec_cnt (s : State) (k m : Nat) (E : Matrix) : (s.writeCodec k m E).core.cnt = s.core.cnt := rfl
@[simp] theorem State.writeCodec_maddr (s : State) (k m : Nat) (E : Matrix) : (s.writeCodec k m E).core.maddr = s.core.maddr := rfl
@[simp] theorem State.writeCodec_cfg (s : State) (k m : Nat) (E : Matrix) : (s.writeCodec k m E).core.cfg = { k := BitVec.ofNat 8 k, m := BitVec.ofNat 8 m, valid := true } := rfl
@[simp] theorem State.writeCodec_sel (s : State) (k m : Nat) (E : Matrix) : (s.writeCodec k m E).core.sel = s.core.sel := rfl
@[simp] theorem State.writeCodec_shard (s : State) (k m : Nat) (E : Matrix) : (s.writeCodec k m E).core.shard = s.core.shard := rfl
@[simp] theorem State.writeCodec_mem (s : State) (k m : Nat) (E : Matrix) : (s.writeCodec k m E).mem = s.mem := rfl
@[simp] theorem State.writeCodec_host (s : State) (k m : Nat) (E : Matrix) : (s.writeCodec k m E).host = s.host := rfl

/-! ### reply -/

@[simp] theorem State.reply_x (s : State) (v : Word) : (s.reply v).core.x = s.core.x := rfl
@[simp] theorem State.reply_m (s : State) (v : Word) : (s.reply v).core.m = s.core.m := rfl
@[simp] theorem State.reply_em (s : State) (v : Word) : (s.reply v).core.em = s.core.em := rfl
@[simp] theorem State.reply_err (s : State) (v : Word) : (s.reply v).core.status.err = s.core.status.err := rfl
@[simp] theorem State.reply_fatal (s : State) (v : Word) : (s.reply v).core.status.fatal = s.core.status.fatal := rfl
@[simp] theorem State.reply_matched (s : State) (v : Word) : (s.reply v).core.status.matched = s.core.status.matched := rfl
@[simp] theorem State.reply_strat (s : State) (v : Word) : (s.reply v).core.strat = s.core.strat := rfl
@[simp] theorem State.reply_n (s : State) (v : Word) : (s.reply v).core.n = s.core.n := rfl
@[simp] theorem State.reply_off (s : State) (v : Word) : (s.reply v).core.off = s.core.off := rfl
@[simp] theorem State.reply_cnt (s : State) (v : Word) : (s.reply v).core.cnt = s.core.cnt := rfl
@[simp] theorem State.reply_maddr (s : State) (v : Word) : (s.reply v).core.maddr = s.core.maddr := rfl
@[simp] theorem State.reply_cfg (s : State) (v : Word) : (s.reply v).core.cfg = s.core.cfg := rfl
@[simp] theorem State.reply_sel (s : State) (v : Word) : (s.reply v).core.sel = s.core.sel := rfl
@[simp] theorem State.reply_shard (s : State) (v : Word) : (s.reply v).core.shard = s.core.shard := rfl
@[simp] theorem State.reply_mem (s : State) (v : Word) : (s.reply v).mem = s.mem := rfl
@[simp] theorem State.reply_host (s : State) (v : Word) : (s.reply v).host = { s.host with replies := v :: s.host.replies } := rfl

/-! ### The reset state (R340) -/

@[simp] theorem State.reset_x : State.reset.core.x = Vector.replicate 16 0 := rfl
@[simp] theorem State.reset_m : State.reset.core.m = Vector.replicate 4 {} := rfl
@[simp] theorem State.reset_em : State.reset.core.em = {} := rfl
@[simp] theorem State.reset_err : State.reset.core.status.err = 0 := rfl
@[simp] theorem State.reset_fatal : State.reset.core.status.fatal = false := rfl
@[simp] theorem State.reset_matched : State.reset.core.status.matched = false := rfl
@[simp] theorem State.reset_strat : State.reset.core.strat = 0 := rfl
@[simp] theorem State.reset_n : State.reset.core.n = 0 := rfl
@[simp] theorem State.reset_off : State.reset.core.off = 0 := rfl
@[simp] theorem State.reset_cnt : State.reset.core.cnt = 0 := rfl
@[simp] theorem State.reset_maddr : State.reset.core.maddr = 0 := rfl
@[simp] theorem State.reset_cfg : State.reset.core.cfg = {} := rfl
@[simp] theorem State.reset_sel : State.reset.core.sel = Vector.replicate 256 {} := rfl
@[simp] theorem State.reset_shard : State.reset.core.shard = Vector.replicate 256 {} := rfl
@[simp] theorem State.reset_mem : State.reset.mem = [] := rfl
@[simp] theorem State.reset_host : State.reset.host = {} := rfl

end Sys2Proof.Machine
end

