-- ==== Sys2Proof/Laws/Ops.lean ====
section
/-! SUPPORT. What completing and raising do, said once (R301), and the forms the commands end in. -/

namespace Sys2Proof.Machine

@[simp] theorem complete_eq_next {s t : State} : complete s = .next t ↔ t = s.setErr 0 := by
  unfold complete
  constructor
  · intro h; cases h; rfl
  · rintro rfl; rfl

@[simp] theorem raise_eq_next {b : Bool} {c : Condition} {s t : State} :
    raise b c s = .next t ↔ t = raised b c s := by
  unfold raise
  constructor
  · intro h; cases h; rfl
  · rintro rfl; rfl

/-- A raise as one record update: `ERR`, and `FATAL` only for a Singular inside CREATE or DECODE. -/
theorem raised_eq (b : Bool) (c : Condition) (s : State) :
    raised b c s =
      { s with
        core.status.err := conditionCode c
        core.status.fatal := s.core.status.fatal || (b && c == .singular) } := by
  unfold raised
  cases hf : s.core.status.fatal <;> cases h : (b && c == .singular) <;>
    simp [State.setErr, State.setFatal, ← hf]

/-- A raise that is not R196's or R215's changes `ERR` and nothing else. -/
theorem raised_external (c : Condition) (s : State) : raised false c s = s.setErr (conditionCode c) := rfl

/-- A condition other than Singular changes `ERR` and nothing else, whoever raises it. -/
theorem raised_of_ne_singular (b : Bool) {c : Condition} (h : c ≠ .singular) (s : State) :
    raised b c s = s.setErr (conditionCode c) := by
  unfold raised
  cases c <;> simp_all

@[simp] theorem raised_mem (b : Bool) (c : Condition) (s : State) : (raised b c s).mem = s.mem := by rw [raised_eq]
@[simp] theorem raised_host (b : Bool) (c : Condition) (s : State) : (raised b c s).host = s.host := by rw [raised_eq]
@[simp] theorem raised_x (b : Bool) (c : Condition) (s : State) : (raised b c s).core.x = s.core.x := by rw [raised_eq]
@[simp] theorem raised_m (b : Bool) (c : Condition) (s : State) : (raised b c s).core.m = s.core.m := by rw [raised_eq]
@[simp] theorem raised_em (b : Bool) (c : Condition) (s : State) : (raised b c s).core.em = s.core.em := by rw [raised_eq]
@[simp] theorem raised_cfg (b : Bool) (c : Condition) (s : State) : (raised b c s).core.cfg = s.core.cfg := by rw [raised_eq]
@[simp] theorem raised_matched (b : Bool) (c : Condition) (s : State) :
    (raised b c s).core.status.matched = s.core.status.matched := by rw [raised_eq]
@[simp] theorem raised_err (b : Bool) (c : Condition) (s : State) :
    (raised b c s).core.status.err = conditionCode c := by rw [raised_eq]
@[simp] theorem raised_fatal (b : Bool) (c : Condition) (s : State) :
    (raised b c s).core.status.fatal = (s.core.status.fatal || (b && c == .singular)) := by rw [raised_eq]
@[simp] theorem raised_strat (b : Bool) (c : Condition) (s : State) : (raised b c s).core.strat = s.core.strat := by
  rw [raised_eq]
@[simp] theorem raised_n (b : Bool) (c : Condition) (s : State) : (raised b c s).core.n = s.core.n := by rw [raised_eq]
@[simp] theorem raised_off (b : Bool) (c : Condition) (s : State) : (raised b c s).core.off = s.core.off := by rw [raised_eq]
@[simp] theorem raised_cnt (b : Bool) (c : Condition) (s : State) : (raised b c s).core.cnt = s.core.cnt := by rw [raised_eq]
@[simp] theorem raised_maddr (b : Bool) (c : Condition) (s : State) : (raised b c s).core.maddr = s.core.maddr := by
  rw [raised_eq]
@[simp] theorem raised_sel (b : Bool) (c : Condition) (s : State) : (raised b c s).core.sel = s.core.sel := by rw [raised_eq]
@[simp] theorem raised_shard (b : Bool) (c : Condition) (s : State) : (raised b c s).core.shard = s.core.shard := by
  rw [raised_eq]

/-- The code of a condition is never 0 and never 7 (R300). -/
theorem conditionCode_range (c : Condition) : conditionCode c ≠ 0 ∧ conditionCode c ≠ 7 := by cases c <;> decide

/-- Code 5 is Singular's alone (R300). -/
theorem conditionCode_eq_five {c : Condition} : conditionCode c = 5 ↔ c = .singular := by cases c <;> decide

end Sys2Proof.Machine
end

