-- ==== Sys2Proof/Laws/Commands.lean ====
section
/-! SUPPORT. The shared forms of the commands, said once: how a field, a matrix, a codec and a loop command ends. -/

namespace Sys2Proof.Machine

@[simp] theorem finishField_ok (d : Fin 16) (v : Byte) (s : State) : finishField d (.ok v) s = complete (s.writeX d v) := rfl

@[simp] theorem finishField_error (d : Fin 16) (c : Condition) (s : State) : finishField d (.error c) s = raise false c s := rfl

@[simp] theorem finishMatrix_ok (d : Fin 4) (A : Matrix) (s : State) : finishMatrix d (.ok A) s = complete (s.writeM d A) := rfl

@[simp] theorem finishMatrix_error (d : Fin 4) (c : Condition) (s : State) :
    finishMatrix d (.error c) s = raise false c s := rfl

/-- A field command ends in one of two ways (R10, R140). -/
theorem finishField_next {d : Fin 16} {r : Except Condition Byte} {s t : State} (h : finishField d r s = .next t) :
    (∃ v, r = .ok v ∧ t = (s.writeX d v).setErr 0) ∨ ∃ c, r = .error c ∧ t = raised false c s := by
  cases r with
  | ok v => exact .inl ⟨v, rfl, by simpa using h⟩
  | error c => exact .inr ⟨c, rfl, by simpa using h⟩

/-- A matrix command with a matrix destination ends in one of two ways (R10, R165). -/
theorem finishMatrix_next {d : Fin 4} {r : Except Condition Matrix} {s t : State} (h : finishMatrix d r s = .next t) :
    (∃ A, r = .ok A ∧ t = (s.writeM d A).setErr 0) ∨ ∃ c, r = .error c ∧ t = raised false c s := by
  cases r with
  | ok A => exact .inl ⟨A, rfl, by simpa using h⟩
  | error c => exact .inr ⟨c, rfl, by simpa using h⟩

/-- When the codec commands' common checks pass (R210). -/
theorem codecCheck_eq_none {s : State} :
    codecCheck s = none ↔
      s.core.cfg.valid = true ∧ (∀ i < s.shardCount, s.shLen i = s.shLen 0) ∧ s.offset + s.count ≤ s.shLen 0 ∧
        ∀ i < s.shardCount, s.shBase i + s.shLen 0 ≤ Config.memSize := by
  unfold codecCheck
  split
  · simp_all
  · split
    · rename_i h1 h2
      simp only [List.any_eq_true, List.mem_range, bne_iff_ne] at h2
      obtain ⟨i, hi, hne⟩ := h2
      simp only [reduceCtorEq, false_iff]
      exact fun ⟨_, h, _⟩ => hne (h i hi)
    · split
      · simp only [reduceCtorEq, false_iff]
        omega
      · split
        · rename_i h1 h2 h3 h4
          simp only [List.any_eq_true, List.mem_range, decide_eq_true_eq] at h4
          obtain ⟨i, hi, hgt⟩ := h4
          simp only [reduceCtorEq, false_iff]
          exact fun ⟨_, _, _, h⟩ => absurd (h i hi) (by omega)
        · rename_i h1 h2 h3 h4
          simp only [List.any_eq_true, List.mem_range, bne_iff_ne, decide_eq_true_eq, not_exists, not_and, not_not] at h2 h4
          refine ⟨fun _ => ⟨by simpa using h1, h2, by omega, fun i hi => ?_⟩, fun _ => rfl⟩
          have := h4 i hi
          omega

/-- The codec commands' checks raise nothing but InvalidConfiguration and DimensionMismatch (R210). -/
theorem codecCheck_eq_some {s : State} {c : Condition} (h : codecCheck s = some c) :
    (s.core.cfg.valid = false ∧ c = .invalidConfiguration) ∨ (s.core.cfg.valid = true ∧ c = .dimensionMismatch) := by
  unfold codecCheck at h
  split at h
  · left; simp_all
  · right
    split at h
    · simp_all
    · split at h
      · simp_all
      · split at h <;> simp_all

/-- When the checks of CODE and CHECK pass (R259). -/
theorem loopCheck_eq_none {ms : MatSrc} {nin nout : Nat} {s : State} :
    loopCheck ms nin nout s = none ↔
      (s.mat ms).rows ≠ 0 ∧ nin ≤ (s.mat ms).cols ∧ (∀ o < nout, (s.selAt o).row.toNat < (s.mat ms).rows) ∧
        (∀ i < nin, badBuffer s (s.selAt i).inp.toNat = false) ∧ ∀ o < nout, badBuffer s (s.selAt o).out.toNat = false := by
  unfold loopCheck
  split
  · simp_all [isEmptyMatrix]
  · split
    · simp only [reduceCtorEq, false_iff]
      omega
    · split
      · rename_i h1 h2 h3
        simp only [State.selRows, List.any_map, List.any_eq_true, List.mem_range, Function.comp, decide_eq_true_eq] at h3
        obtain ⟨o, ho, hge⟩ := h3
        simp only [reduceCtorEq, false_iff]
        exact fun ⟨_, _, h, _⟩ => absurd (h o ho) (by omega)
      · split
        · rename_i h1 h2 h3 h4
          simp only [List.any_eq_true, List.mem_range] at h4
          obtain ⟨i, hi, hbad⟩ := h4
          simp only [reduceCtorEq, false_iff]
          exact fun ⟨_, _, _, h, _⟩ => by simp [h i hi] at hbad
        · split
          · rename_i h1 h2 h3 h4 h5
            simp only [List.any_eq_true, List.mem_range] at h5
            obtain ⟨o, ho, hbad⟩ := h5
            simp only [reduceCtorEq, false_iff]
            exact fun ⟨_, _, _, _, h⟩ => by simp [h o ho] at hbad
          · rename_i h1 h2 h3 h4 h5
            simp only [State.selRows, List.any_map, List.any_eq_true, List.mem_range, Function.comp, decide_eq_true_eq, not_exists,
              not_and, Bool.not_eq_true] at h3 h4 h5
            refine ⟨fun _ => ⟨by simpa [isEmptyMatrix] using h1, by omega, fun o ho => ?_, h4, h5⟩, fun _ => rfl⟩
            have := h3 o ho
            omega

/-- The checks of CODE and CHECK raise nothing but DimensionMismatch (R259). -/
theorem loopCheck_eq_some {ms : MatSrc} {nin nout : Nat} {s : State} {c : Condition} (h : loopCheck ms nin nout s = some c) :
    c = .dimensionMismatch := by
  unfold loopCheck at h
  repeat' (split at h)
  all_goals simp_all

end Sys2Proof.Machine
end

