-- ==== Sys2Proof/Laws/Decode.lean ====
section
/-! SUPPORT. The parts of the decoder, each with what it answers. -/

namespace Sys2Proof

@[simp] theorem ok_bind {α β : Type} (a : α) (f : α → Except DecodeError β) : (Except.ok a >>= f) = f a := rfl

@[simp] theorem error_bind {α β : Type} (e : DecodeError) (f : α → Except DecodeError β) :
    ((Except.error e : Except DecodeError α) >>= f) = .error e := rfl

/-- An opcode byte names a command exactly when it is that command's byte (R93, R95). -/
theorem opcodeOf_eq_some {b : Nat} {c : Opcode} : opcodeOf b = some c ↔ opcodeByte c = b := by
  constructor
  · intro h
    simpa using List.find?_some h
  · rintro rfl
    cases c <;> decide

theorem needZero_eq_ok {fs : List Nat} {u : Unit} : needZero fs = .ok u ↔ ∀ f ∈ fs, f = 0 := by
  unfold needZero
  split
  · rename_i h
    simp only [List.all_eq_true, beq_iff_eq] at h
    simp only [true_iff]
    exact h
  · rename_i h
    simp only [List.all_eq_true, beq_iff_eq] at h
    simp only [reduceCtorEq, false_iff]
    exact h

theorem destOf_eq_ok {f : Nat} {d : Fin 4} : destOf f = .ok d ↔ f = d.val := by
  unfold destOf
  split
  · rename_i h
    simp only [Except.ok.injEq, Fin.ext_iff]
  · simp only [reduceCtorEq, false_iff]
    omega

theorem sourceOf_eq_ok {f : Nat} {ms : MatSrc} : sourceOf f = .ok ms ↔ f = sourceField ms := by
  unfold sourceOf
  split
  · rename_i h
    cases ms with
    | m i => simp only [Except.ok.injEq, MatSrc.m.injEq, Fin.ext_iff, sourceField]
    | em =>
      simp only [Except.ok.injEq, reduceCtorEq, sourceField, false_iff]
      omega
  · split
    · rename_i h h4
      cases ms with
      | m i =>
        simp only [Except.ok.injEq, reduceCtorEq, sourceField, false_iff]
        omega
      | em => simp [sourceField, h4]
    · rename_i h h4
      simp only [reduceCtorEq, false_iff]
      cases ms with
      | m i =>
        simp only [sourceField]
        omega
      | em => exact h4

end Sys2Proof
end

