-- ==== Sys2Proof/Laws/PerInstr.lean ====
section
/-! SUPPORT. What holds of every instruction as syntax, one lemma per constructor. -/

namespace Sys2Proof.Laws

/- One proof after another: side by side, each would hold a thread and its stack. -/
set_option Elab.async false

/-- The word of a well-formed command has the command's opcode in bits 31:24, and no bit of it is lost (R90, R98). -/
def EncodeOpcode.Statement (i : Instr) : Prop :=
  wellFormed i = true → (encode i).toNat = encodeNat i ∧ fieldOp (encode i) = opcodeByte (instrOpcode i)

/-- A number below `2^32` survives as a word, and its top byte is the opcode. -/
theorem word_of_number {n op : Nat} {i : Instr} (hn : encodeNat i = n) (hop : opcodeByte (instrOpcode i) = op)
    (h : op < 256 ∧ op * 2 ^ 24 ≤ n ∧ n < (op + 1) * 2 ^ 24) :
    (encode i).toNat = encodeNat i ∧ fieldOp (encode i) = opcodeByte (instrOpcode i) := by
  have hlt : n < 2 ^ 32 := by omega
  have h1 : (encode i).toNat = n := by
    rw [encode, hn, BitVec.toNat_ofNat, Nat.mod_eq_of_lt hlt]
  refine ⟨h1.trans hn.symm, ?_⟩
  rw [fieldOp, h1, hop]
  omega

/-- A matrix source number is at most 4. -/
theorem sourceField_le (ms : MatSrc) : sourceField ms ≤ 4 := by
  cases ms with
  | m i => exact Nat.le_of_lt i.isLt
  | em => exact Nat.le_refl 4

theorem EncodeOpcode.nop : EncodeOpcode.Statement .nop := fun _ => word_of_number rfl rfl (by simp only [encodeNat, opcodeByte, instrOpcode]; omega)

theorem EncodeOpcode.gfadd (d a b : Fin 16) : EncodeOpcode.Statement (.gfadd d a b) := fun _ =>
  word_of_number rfl rfl (by simp only [encodeNat, formatR, opcodeByte, instrOpcode]; omega)

theorem EncodeOpcode.gfmul (d a b : Fin 16) : EncodeOpcode.Statement (.gfmul d a b) := fun _ =>
  word_of_number rfl rfl (by simp only [encodeNat, formatR, opcodeByte, instrOpcode]; omega)

theorem EncodeOpcode.gfmulx (d a b : Fin 16) : EncodeOpcode.Statement (.gfmulx d a b) := fun _ =>
  word_of_number rfl rfl (by simp only [encodeNat, formatR, opcodeByte, instrOpcode]; omega)

theorem EncodeOpcode.gfdiv (d a b : Fin 16) : EncodeOpcode.Statement (.gfdiv d a b) := fun _ =>
  word_of_number rfl rfl (by simp only [encodeNat, formatR, opcodeByte, instrOpcode]; omega)

theorem EncodeOpcode.gfinv (d a : Fin 16) : EncodeOpcode.Statement (.gfinv d a) := fun _ =>
  word_of_number rfl rfl (by simp only [encodeNat, formatR, opcodeByte, instrOpcode]; omega)

theorem EncodeOpcode.gfexp (d a : Fin 16) : EncodeOpcode.Statement (.gfexp d a) := fun _ =>
  word_of_number rfl rfl (by simp only [encodeNat, formatR, opcodeByte, instrOpcode]; omega)

theorem EncodeOpcode.mload (d : Fin 4) (rows cols : Nat) : EncodeOpcode.Statement (.mload d rows cols) := fun h =>
  word_of_number rfl rfl (by simp [wellFormed, countOk] at h; simp only [encodeNat, formatR, opcodeByte, instrOpcode]; omega)

theorem EncodeOpcode.mstore (ms : MatSrc) : EncodeOpcode.Statement (.mstore ms) := fun _ =>
  word_of_number rfl rfl (by have := sourceField_le ms; simp only [encodeNat, formatR, opcodeByte, instrOpcode]; omega)

theorem EncodeOpcode.mmul (d : Fin 4) (ma mb : MatSrc) : EncodeOpcode.Statement (.mmul d ma mb) := fun _ =>
  word_of_number rfl rfl (by have := sourceField_le ma; have := sourceField_le mb; simp only [encodeNat, formatR, opcodeByte, instrOpcode]; omega)

theorem EncodeOpcode.msub (d : Fin 4) (ms : MatSrc) (n : Nat) : EncodeOpcode.Statement (.msub d ms n) := fun h =>
  word_of_number rfl rfl (by
    have := sourceField_le ms; simp [wellFormed, countOk] at h; simp only [encodeNat, formatR, opcodeByte, instrOpcode]; omega)

theorem EncodeOpcode.minv (d : Fin 4) (ms : MatSrc) : EncodeOpcode.Statement (.minv d ms) := fun _ =>
  word_of_number rfl rfl (by have := sourceField_le ms; simp only [encodeNat, formatR, opcodeByte, instrOpcode]; omega)

theorem EncodeOpcode.create (k m : Nat) : EncodeOpcode.Statement (.create k m) := fun h =>
  word_of_number rfl rfl (by simp [wellFormed, count12Ok] at h; simp only [encodeNat, formatK, opcodeByte, instrOpcode]; omega)

theorem EncodeOpcode.encode : EncodeOpcode.Statement .encode := fun _ => word_of_number rfl rfl (by simp only [encodeNat, opcodeByte, instrOpcode]; omega)

theorem EncodeOpcode.verify : EncodeOpcode.Statement .verify := fun _ => word_of_number rfl rfl (by simp only [encodeNat, opcodeByte, instrOpcode]; omega)

theorem EncodeOpcode.decode : EncodeOpcode.Statement .decode := fun _ => word_of_number rfl rfl (by simp only [encodeNat, opcodeByte, instrOpcode]; omega)

theorem EncodeOpcode.code (ms : MatSrc) (nin nout : Nat) : EncodeOpcode.Statement (.code ms nin nout) := fun h =>
  word_of_number rfl rfl (by
    have := sourceField_le ms; simp [wellFormed, countOk] at h; simp only [encodeNat, formatR, opcodeByte, instrOpcode]; omega)

theorem EncodeOpcode.check (ms : MatSrc) (nin nout : Nat) : EncodeOpcode.Statement (.check ms nin nout) := fun h =>
  word_of_number rfl rfl (by
    have := sourceField_le ms; simp [wellFormed, countOk] at h; simp only [encodeNat, formatR, opcodeByte, instrOpcode]; omega)

end Sys2Proof.Laws
end

