-- ==== Sys2Proof/Tests/Slice0.lean ====
section
/-! SUPPORT. The model's own tests. Expected values come from 95_test_vectors.md or are worked out by hand from the rules;
the last part shows states and operands that meet the hypotheses of the obligations. -/

namespace Sys2Proof.Tests

/- The evaluations of this file one after another: side by side, each would hold a thread and its stack. -/
set_option Elab.async false

open Sys2Proof Sys2Proof.Machine

/-! ### Helpers: small states, and looking at the state after one step -/

/-- The state after an outcome, if there is one. -/
def after (o : Host.Outcome State Fault Refusal) : Option State :=
  match o with
  | .next t => some t
  | .fault _ => none
  | .refused _ => none

/-- A view of the state after one instruction. -/
def see {α : Type} (view : State → α) (i : Instr) (s : State) : Option α := (after (exec i s)).map view

/-- `STATUS` as the host reads it. -/
def statusOf (s : State) : Word := statusWord s.core.status

/-- `n` bytes of shard memory from an address on. -/
def bytesAt (addr n : Nat) (s : State) : List Byte := (List.range n).map fun i => s.mem.read (addr + i)

/-- A scalar register. -/
def xAt (i : Fin 16) (s : State) : Byte := s.core.x[i]

/-- Rows of elements as a matrix. -/
def mat (rows : List (List Byte)) : Matrix := { rows := rows.length, cols := (rows.headD []).length, data := rows }

/-- Reset with two scalar operands, in `x1` and `x2`. -/
def scalars (a b : Byte) : State := (State.reset.writeX 1 a).writeX 2 b

/-- Reset with two matrices, in `m0` and `m1`. -/
def matrices (A B : Matrix) : State := (State.reset.writeM 0 A).writeM 1 B

/-- Reset with the word of a host write of `v` at `off` pending. -/
def hostWrites (off : Nat) (v : Word) (s : State) : State := { s with host.pending := [.write off v] }

/-- A 256-entry table with the listed entries from index `i` on. -/
def fill {α : Type} (i : Nat) (es : List α) (v : Vector α 256) : Vector α 256 :=
  match es with
  | [] => v
  | e :: rest => fill (i + 1) rest (v.setIfInBounds i e)

/-- A descriptor table. -/
def table (ds : List Descriptor) : Vector Descriptor 256 := fill 0 ds State.reset.core.shard

/-- A selection table. -/
def selectors (es : List SelEntry) : Vector SelEntry 256 := fill 0 es State.reset.core.sel

/-! ### Well-formedness: each check refuses an ill-formed term (R92, R93) -/

theorem test_wf_mload_rows_zero : wellFormed (.mload 0 0 1) = false := by decide +kernel
theorem test_wf_mload_rows_above : wellFormed (.mload 0 257 1) = false := by decide +kernel
theorem test_wf_mload_cols_zero : wellFormed (.mload 0 1 0) = false := by decide +kernel
theorem test_wf_mload_cols_above : wellFormed (.mload 0 1 257) = false := by decide +kernel
theorem test_wf_msub_zero : wellFormed (.msub 0 .em 0) = false := by decide +kernel
theorem test_wf_msub_above : wellFormed (.msub 0 .em 257) = false := by decide +kernel
theorem test_wf_create_k_above : wellFormed (.create 4096 1) = false := by decide +kernel
theorem test_wf_create_m_above : wellFormed (.create 1 4096) = false := by decide +kernel
theorem test_wf_code_nin : wellFormed (.code .em 0 1) = false ∧ wellFormed (.code .em 257 1) = false := by decide +kernel
theorem test_wf_code_nout : wellFormed (.code .em 1 0) = false ∧ wellFormed (.code .em 1 257) = false := by decide +kernel
theorem test_wf_check_nin : wellFormed (.check .em 0 1) = false ∧ wellFormed (.check .em 257 1) = false := by decide +kernel
theorem test_wf_check_nout : wellFormed (.check .em 1 0) = false ∧ wellFormed (.check .em 1 257) = false := by decide +kernel
theorem test_wf_boundaries : wellFormed (.mload 3 256 256) = true ∧ wellFormed (.create 4095 0) = true ∧
    wellFormed (.msub 3 .em 1) = true ∧ wellFormed (.code .em 1 256) = true := by decide +kernel

/-! ### Decoding, one word for every command (95_test_vectors.md 7.1) -/

theorem test_decode_nop : decode 0b00000000000000000000000000000000 = .ok .nop := by decide +kernel
theorem test_decode_gfadd : decode 0b00010000001100010000000000000010 = .ok (.gfadd 3 1 2) := by decide +kernel
theorem test_decode_gfmul : decode 0x11310002 = .ok (.gfmul 3 1 2) := by decide +kernel
theorem test_decode_gfmulx : decode 0x12310002 = .ok (.gfmulx 3 1 2) := by decide +kernel
theorem test_decode_gfdiv : decode 0x13310002 = .ok (.gfdiv 3 1 2) ∧ decode 0x13FF000F = .ok (.gfdiv 15 15 15) := by decide +kernel
theorem test_decode_gfinv : decode 0x14210000 = .ok (.gfinv 2 1) := by decide +kernel
theorem test_decode_gfexp : decode 0x15210000 = .ok (.gfexp 2 1) := by decide +kernel
theorem test_decode_mload : decode 0b00100000001100001111111100000000 = .ok (.mload 3 256 1) := by decide +kernel
theorem test_decode_mstore : decode 0x21040000 = .ok (.mstore .em) := by decide +kernel
theorem test_decode_mmul : decode 0x22340000 = .ok (.mmul 3 .em (.m 0)) ∧ decode 0x22200001 = .ok (.mmul 2 (.m 0) (.m 1)) := by decide +kernel
theorem test_decode_msub : decode 0x23040003 = .ok (.msub 0 .em 4) := by decide +kernel
theorem test_decode_minv : decode 0x24100000 = .ok (.minv 1 (.m 0)) := by decide +kernel
theorem test_decode_create : decode 0b00110000000000000100000000000010 = .ok (.create 4 2) ∧
    decode 0x300FF001 = .ok (.create 255 1) := by decide +kernel
theorem test_decode_encode : decode 0b01000000000000000000000000000000 = .ok .encode := by decide +kernel
theorem test_decode_verify : decode 0x41000000 = .ok .verify := by decide +kernel
theorem test_decode_decode : decode 0x42000000 = .ok .decode := by decide +kernel
theorem test_decode_code : decode 0b01010000000001001111111111111111 = .ok (.code .em 256 256) := by decide +kernel
theorem test_decode_check : decode 0x51000101 = .ok (.check (.m 0) 2 2) := by decide +kernel

/-- 95_test_vectors.md 7.2, case (a) of R96. -/
theorem test_illegal_opcodes :
    [0x01000000, 0x0F000000, 0x16000000, 0x1F000000, 0x25000000, 0x31000000, 0x43000000, 0x52000000, 0x60000000,
      0xFF000000, 0xFFFFFFFF].all (fun w => decode w = .error .unknownOpcode) = true := by decide +kernel

/-- 95_test_vectors.md 7.2, case (b). -/
theorem test_illegal_unused_fields :
    [0x00000001, 0x10310102, 0x10310012, 0x14210001, 0x15210100, 0x20010101, 0x21140000, 0x22200101, 0x24100001,
      0x40000001, 0x41100000, 0x42000100, 0x50100101].all
      (fun w => decode w = .error .unusedFieldNotZero) = true := by decide +kernel

/-- 95_test_vectors.md 7.2, cases (c) and (d). -/
theorem test_illegal_matrix_indices :
    decode 0x20400101 = .error .noSuchDestination ∧ decode 0x24400000 = .error .noSuchDestination ∧
    decode 0x21050000 = .error .noSuchSource ∧ decode 0x22200005 = .error .noSuchSource ∧
    decode 0x23050003 = .error .noSuchSource ∧ decode 0x51050101 = .error .noSuchSource := by decide +kernel

theorem test_encode_format_R : encode (.msub 0 .em 4) = 0x23040003 ∧ encode (.mmul 3 .em (.m 0)) = 0x22340000 := by decide +kernel
theorem test_encode_format_K : encode (.create 255 1) = 0x300FF001 ∧ encode (.create 4095 4095) = 0x30FFFFFF := by decide +kernel

/-! ### The field (95_test_vectors.md 2) -/

theorem test_exp_ends : expAt 0 = 0x01 ∧ expAt 8 = 0x1D ∧ expAt 253 = 0x47 ∧ expAt 254 = 0x8E := by decide +kernel
theorem test_log_ends : logAt 0x01 = 0 ∧ logAt 0x03 = 25 ∧ logAt 0x8E = 254 ∧ logAt 0xFF = 175 := by decide +kernel
theorem test_product_rows : mulTab 0xFF 0xFF = 0xE2 ∧ mulTab 0x53 0xCA = 0x8F ∧ mulTab 0x80 0x7F = 0x71 := by decide +kernel
theorem test_inverses : gfInv 0x02 = .ok 0x8E ∧ gfInv 0x53 = .ok 0x8C ∧ gfInv 0 = .error .divideByZero := by decide +kernel

/-! ### The GF commands (95_test_vectors.md 2.1, 2.2) -/

theorem test_gfadd_row : see (xAt 3) (.gfadd 3 1 2) (scalars 0x53 0xCA) = some 0x99 := by decide +kernel
theorem test_gfadd_alias : see (xAt 1) (.gfadd 1 1 1) (scalars 0x53 0) = some 0x00 := by decide +kernel
theorem test_gfmul_row : see (xAt 3) (.gfmul 3 1 2) (scalars 0x02 0x80) = some 0x1D := by decide +kernel
theorem test_gfmul_alias : see (xAt 1) (.gfmul 1 1 1) (scalars 0x53 0) = some 0xD5 := by decide +kernel
theorem test_gfmulx_row : see (xAt 3) (.gfmulx 3 1 2) (scalars 0x53 0xCA) = some 0x8F := by decide +kernel
theorem test_gfmulx_zero : see (xAt 3) (.gfmulx 3 1 2) ((scalars 0 0xCA).writeX 3 7) = some 0x00 := by decide +kernel
theorem test_gfdiv_order : see (xAt 3) (.gfdiv 3 1 2) (scalars 0x53 0xCA) = some 0x6D := by decide +kernel
theorem test_gfdiv_zero_by_zero :
    see (fun t => (xAt 3 t, statusOf t)) (.gfdiv 3 1 2) ((scalars 0 0).writeX 3 7) = some (7, 4) := by decide +kernel
theorem test_gfinv_row : see (xAt 3) (.gfinv 3 1) (scalars 0xCA 0) = some 0x62 := by decide +kernel
theorem test_gfinv_zero : see (fun t => (xAt 3 t, statusOf t)) (.gfinv 3 1) ((scalars 0 0).writeX 3 7) = some (7, 4) := by
  decide +kernel
theorem test_gfexp_row :
    see (xAt 3) (.gfexp 3 1) { scalars 0x1D 0 with core.n := 300 } = some 0x1A := by decide +kernel
theorem test_gfexp_corners :
    see (xAt 3) (.gfexp 3 1) (scalars 0 0) = some 0x01 ∧
    see (xAt 3) (.gfexp 3 1) { scalars 0x02 0 with core.n := 0xFFFFFFFF } = some 0x01 := by decide +kernel

/-! ### The matrix commands (95_test_vectors.md 3) -/

theorem test_nop_clears_err_keeps_match :
    see statusOf .nop ((State.reset.setErr 4).setMatch true) = some 0x10 := by decide +kernel

/-- 95_test_vectors.md 3.4: `01 .. 06` at 0x2000. -/
def imageState : State :=
  { State.reset with core.maddr := 0x2000, mem := [(0x2000, 1), (0x2001, 2), (0x2002, 3), (0x2003, 4), (0x2004, 5), (0x2005, 6)] }

theorem test_mload_two_by_three :
    see (fun t => (t.core.m[0], portRead (.mdim 0) t)) (.mload 0 2 3) imageState =
      some (mat [[1, 2, 3], [4, 5, 6]], 0x00030002) := by decide +kernel
theorem test_mload_top_of_memory :
    see statusOf (.mload 0 1 2) { State.reset with core.maddr := 0xFFFFFFFF } = some 2 ∧
    see statusOf (.mload 0 1 1) { State.reset with core.maddr := 0xFFFFFFFF } = some 0 := by decide +kernel
theorem test_mstore_row_major :
    see (bytesAt 0x3000 7) (.mstore (.m 1))
      { matrices {} (mat [[1, 2], [3, 4], [5, 6]]) with core.maddr := 0x3000 } = some [1, 2, 3, 4, 5, 6, 0] := by decide +kernel
theorem test_mstore_empty : see statusOf (.mstore (.m 3)) State.reset = some 2 := by decide +kernel
theorem test_mmul_product :
    see (fun t => t.core.m[2]) (.mmul 2 (.m 0) (.m 1)) (matrices (mat [[1, 2], [3, 4]]) (mat [[5, 6], [7, 8]])) =
      some (mat [[0x0B, 0x16], [0x13, 0x2A]]) := by decide +kernel
theorem test_mmul_alias :
    see (fun t => t.core.m[0]) (.mmul 0 (.m 0) (.m 0)) (matrices (mat [[1, 2], [3, 4]]) {}) =
      some (mat [[0x07, 0x0A], [0x0F, 0x16]]) := by decide +kernel

/-- The encoding matrix of (4, 2) (95_test_vectors.md 4.1), with the row list `5, 4, 3, 3` in `SEL`. -/
def rowListState : State :=
  { State.reset with
    core.em := mat [[1, 0, 0, 0], [0, 1, 0, 0], [0, 0, 1, 0], [0, 0, 0, 1], [0x1B, 0x1C, 0x12, 0x14], [0x1C, 0x1B, 0x14, 0x12]]
    core.sel := selectors [{ row := 5 }, { row := 4 }, { row := 3 }, { row := 3 }] }

theorem test_msub_order_and_repetition :
    see (fun t => t.core.m[0]) (.msub 0 .em 4) rowListState =
      some (mat [[0x1C, 0x1B, 0x14, 0x12], [0x1B, 0x1C, 0x12, 0x14], [0, 0, 0, 1], [0, 0, 0, 1]]) := by decide +kernel
theorem test_msub_wrong_length : see statusOf (.msub 0 .em 3) rowListState = some 2 := by decide +kernel
theorem test_minv_needs_swap :
    see (fun t => t.core.m[1]) (.minv 1 (.m 0)) (matrices (mat [[0, 1, 0], [2, 0, 0], [0, 0, 3]]) {}) =
      some (mat [[0, 0x8E, 0], [1, 0, 0], [0, 0, 0xF4]]) := by decide +kernel
theorem test_minv_singular :
    see (fun t => (statusOf t, t.core.m[1])) (.minv 1 (.m 0)) (matrices (mat [[1, 2], [2, 4]]) (mat [[9]])) =
      some (5, mat [[9]]) := by decide +kernel

/-! ### CREATE (95_test_vectors.md 4) -/

theorem test_create_four_two :
    see (fun t => (t.core.em, cfgWord t.core.cfg)) (.create 4 2) State.reset = some (rowListState.core.em, 0x00010204) := by decide +kernel
theorem test_create_rejects :
    see statusOf (.create 0 2) State.reset = some 1 ∧ see statusOf (.create 255 2) State.reset = some 1 := by decide +kernel

/-! ### The codec commands: `k = m = 1` (95_test_vectors.md 5.5) and `k = 4, m = 2` (5.1, 5.3) -/

/-- `create 1, 1` done, `DE AD 01` in the data shard, `EE` in the parity shard, both present; the whole shard the window. -/
def mirrorState : State :=
  { State.reset with
    core.em := mat [[1], [1]]
    core.cfg := { k := 1, m := 1, valid := true }
    core.cnt := 3
    core.shard := table [{ base := 0x100, len := 3, present := true }, { base := 0x200, len := 3, present := true }]
    mem := [(0x100, 0xDE), (0x101, 0xAD), (0x102, 0x01), (0x200, 0xEE), (0x201, 0xEE), (0x202, 0xEE)] }

/-- The same with both shards holding the data and the data shard marked missing. -/
def mirrorMissing : State :=
  { mirrorState with
    core.shard := table [{ base := 0x100, len := 3, present := false }, { base := 0x200, len := 3, present := true }]
    mem := [(0x100, 0xEE), (0x101, 0xEE), (0x102, 0xEE), (0x200, 0xDE), (0x201, 0xAD), (0x202, 0x01)] }

/-- 95_test_vectors.md 5.1 with one byte in each shard, byte 1 of the source's scenario: shards 0 and 1 missing. -/
def scenarioState : State :=
  { rowListState with
    core.cfg := { k := 4, m := 2, valid := true }
    core.cnt := 1
    core.shard := table [{ base := 0x10, len := 1 }, { base := 0x11, len := 1 },
      { base := 0x12, len := 1, present := true }, { base := 0x13, len := 1, present := true },
      { base := 0x14, len := 1, present := true }, { base := 0x15, len := 1, present := true }]
    mem := [(0x10, 1), (0x11, 5), (0x12, 9), (0x13, 0x0D), (0x14, 0x11), (0x15, 0x15)] }

theorem test_encode_mirror : see (bytesAt 0x200 3) .encode mirrorState = some [0xDE, 0xAD, 0x01] := by decide +kernel
theorem test_encode_scenario :
    see (bytesAt 0x14 2) .encode { scenarioState with mem := scenarioState.mem.take 4 } = some [0x11, 0x15] := by decide +kernel
theorem test_verify_match : see statusOf .verify scenarioState = some 0x10 := by decide +kernel
theorem test_verify_mismatch : see statusOf .verify { scenarioState with mem := scenarioState.mem.take 5 } = some 0x00 := by
  decide +kernel
theorem test_decode_two_missing :
    see (bytesAt 0x10 6) .decode { scenarioState with mem := (0x10, 0xEE) :: (0x11, 0xEE) :: scenarioState.mem.drop 2 } =
      some [1, 5, 9, 0x0D, 0x11, 0x15] := by decide +kernel
theorem test_decode_insufficient : see statusOf .decode { mirrorState with core.shard := table [{ base := 0x100, len := 3 }, { base := 0x200, len := 3 }] } = some 3 ∧
    see statusOf .decode State.reset = some 1 := by decide +kernel

/-! ### The coding loops (95_test_vectors.md 6.1, 6.3) -/

/-- 95_test_vectors.md 6.1. -/
def loopState : State :=
  { State.reset with
    core.m := State.reset.core.m.set 0 (mat [[2, 3], [4, 5]])
    core.cnt := 2
    core.sel := selectors [{ inp := 0, out := 2, row := 0 }, { inp := 1, out := 3, row := 1 }]
    core.shard := table [{ base := 0x10, len := 2 }, { base := 0x20, len := 2 }, { base := 0x30, len := 2 },
      { base := 0x40, len := 2 }]
    mem := [(0x10, 1), (0x11, 2), (0x20, 0x10), (0x21, 0x20), (0x30, 0xEE), (0x31, 0xEE), (0x40, 0xEE), (0x41, 0xEE)] }

/-- The memory after it, under every unit. -/
def loopDone : Memory :=
  [(0x10, 1), (0x11, 2), (0x20, 0x10), (0x21, 0x20), (0x30, 0x32), (0x31, 0x64), (0x40, 0x54), (0x41, 0xA8)]

theorem test_code_every_unit :
    (List.finRange 12).all (fun u => see State.mem (.code (.m 0) 2 2) { loopState with core.strat := u } = some loopDone) = true := by
  decide +kernel
theorem test_code_overlap_by_unit :
    let s := { loopState with core.sel := selectors [{ inp := 0, out := 1, row := 0 }, { inp := 1, out := 3, row := 1 }] }
    see (fun t => bytesAt 0x20 2 t ++ bytesAt 0x40 2 t) (.code (.m 0) 2 2) s = some [0x04, 0x08, 0x10, 0x20] ∧
    see (fun t => bytesAt 0x20 2 t ++ bytesAt 0x40 2 t) (.code (.m 0) 2 2) { s with core.strat := 9 } =
      some [0x32, 0x64, 0xFE, 0xE1] := by decide +kernel
theorem test_check_match : see statusOf (.check (.m 0) 2 2) { loopState with mem := loopDone } = some 0x10 := by decide +kernel
theorem test_check_mismatch :
    see statusOf (.check (.m 0) 2 2) { loopState with mem := Memory.write loopDone 0x41 0xA9 } = some 0x00 := by decide +kernel

/-- The first accesses of 95_test_vectors.md 6.1's traces. -/
theorem test_access_sequences :
    let c := loopCall (.m 0) 2 2 loopState
    (runAccesses 0 c).take 7 = [.read 0x10, .write 0x30, .read 0x10, .write 0x40, .read 0x20, .read 0x30, .write 0x30] ∧
    (runAccesses 8 c).take 6 = [.read 0x10, .read 0x20, .write 0x30, .read 0x11, .read 0x21, .write 0x31] ∧
    (runAccesses 5 c).take 5 = [.read 0x10, .write 0x30, .read 0x10, .write 0x40, .read 0x11] ∧
    (runAccesses 10 c).length = 20 ∧ (runAccesses 3 c).length = 12 := by decide +kernel

/-! ### The port -/

theorem test_withFetchWord_runs :
    (after (step (State.reset.withFetchWord 32 0x15210000))).map (xAt 2) = some 0x01 := by decide +kernel
theorem test_illegal_word_raises :
    (after (step (State.reset.withFetchWord 32 0x43000000))).map statusOf = some 6 := by decide +kernel
theorem test_strat_ignores_twelve :
    ((after (step (hostWrites 8 12 State.reset))).map fun t => t.core.strat.val) = some 0 ∧
    ((after (step (hostWrites 8 11 State.reset))).map fun t => t.core.strat.val) = some 11 := by decide +kernel
theorem test_host_reads_sel :
    ((after (step { loopState with host.pending := [.read 0x404] })).map fun t => t.host.replies) = some [0x00010301] := by decide +kernel

/-! ### Witnesses: the hypotheses of the obligations can be met, at the boundaries of their clauses -/

/-- The state after an instruction (the state itself if there is none). -/
def next (i : Instr) (s : State) : State := (after (exec i s)).getD s

/-- Whether an instruction answers a next state. -/
def completes (i : Instr) (s : State) : Bool := (after (exec i s)).isSome

theorem exec_of_completes {i : Instr} {s : State} (h : completes i s = true) : exec i s = .next (next i s) := by
  revert h
  unfold completes next
  cases exec i s <;> simp [after]

/-- A halted core (R303). -/
def haltedState : State := (State.reset.setErr 5).setFatal

/-- `mirrorState`, `mirrorMissing` and reset meet the invariant. -/
theorem mirror_inv : Inv mirrorState where
  core :=
    { matrices := by decide +kernel
      encoding := by decide +kernel
      codec := ⟨fun _ => ⟨by decide +kernel, by decide +kernel⟩, fun h => absurd h (by decide +kernel)⟩
      code7 := by decide +kernel
      halted := by decide +kernel }
  mem := by decide +kernel

theorem mirrorMissing_inv : Inv mirrorMissing where
  core :=
    { matrices := by decide +kernel
      encoding := by decide +kernel
      codec := ⟨fun _ => ⟨by decide +kernel, by decide +kernel⟩, fun h => absurd h (by decide +kernel)⟩
      code7 := by decide +kernel
      halted := by decide +kernel }
  mem := by decide +kernel

theorem reset_inv : Inv State.reset where
  core :=
    { matrices := by decide +kernel
      encoding := by decide +kernel
      codec := ⟨fun h => absurd h (by decide +kernel), fun _ => by decide +kernel⟩
      code7 := by decide +kernel
      halted := by decide +kernel }
  mem := by decide +kernel

theorem mirror_ready : CodecReady mirrorState := by unfold CodecReady; decide +kernel
theorem mirrorMissing_ready : CodecReady mirrorMissing := by unfold CodecReady; decide +kernel

/-- DecodeOfEncodeIsTheCommand and EncodeOfDecodeIsTheWord. -/
theorem test_witness_round_trip :
    wellFormed (.code .em 256 256) = true ∧ decode 0x30FFFFFF = .ok (.create 4095 4095) := by decide +kernel

/-- StepAcceptsCommandWord: halted, an illegal word, a legal word. -/
theorem test_witness_command_word :
    (haltedState.core.status.fatal = true ∧ (hostWrites 0 0x43000000 haltedState).host.pending = .write 0 0x43000000 :: []) ∧
    (State.reset.core.status.fatal = false ∧ decode 0x43000000 = .error .unknownOpcode) ∧
    decode 0x21040000 = .ok (.mstore .em) := by decide +kernel

/-- FetchWordIsRunNext and IdleStepHoldsState. -/
theorem test_witness_fetch_and_idle :
    State.reset.core.status.fatal = false ∧ decode 0x30004002 = .ok (.create 4 2) ∧ State.reset.host.pending = [] := by
  decide +kernel

/-- NoCommandWritesControlRegisters and StateWrittenOnlyByItsCommands: each clause's opcodes leave some command out. -/
theorem test_witness_written_only :
    completes .encode mirrorState = true ∧ completes (.gfadd 0 0 0) State.reset = true ∧
    instrOpcode .encode ∉ [Opcode.gfadd, .gfmul, .gfmulx, .gfdiv, .gfinv, .gfexp] ∧
    instrOpcode .encode ∉ [Opcode.mload, .mmul, .msub, .minv] ∧ instrOpcode .encode ≠ .create ∧
    instrOpcode .encode ∉ [Opcode.verify, .check] ∧ instrOpcode .encode ∉ [Opcode.create, .decode] ∧
    instrOpcode (.gfadd 0 0 0) ∉ [Opcode.mstore, .encode, .decode, .code] := by decide +kernel

/-- NoWriteOutsideFootprint: the last byte before and the first byte after a written window. -/
theorem test_witness_footprint :
    completes .encode mirrorState = true ∧ inFootprint (writeFootprint .encode mirrorState) 0x1FF = false ∧
    inFootprint (writeFootprint .encode mirrorState) 0x200 = true ∧
    inFootprint (writeFootprint .encode mirrorState) 0x203 = false := by decide +kernel

/-- GfdivWritesQuotientOrRaises and GfinvWritesInverseOrRaises: zero and nonzero. -/
theorem test_witness_divisors : (scalars 0 1).core.x[(1 : Fin 16)] = 0 ∧ (scalars 0 1).core.x[(2 : Fin 16)] ≠ 0 := by decide +kernel

/-- MloadReadsTheImage: the image ends exactly at `2^32`, and one byte past it. -/
theorem test_witness_mload :
    wellFormed (.mload 0 1 1) = true ∧ wellFormed (.mload 0 1 2) = true ∧
    ({ State.reset with core.maddr := 0xFFFFFFFF } : State).imageBase + 1 * 1 ≤ 2 ^ 32 ∧
    ({ State.reset with core.maddr := 0xFFFFFFFF } : State).imageBase + 1 * 2 > 2 ^ 32 := by decide +kernel

/-- `m0` a legal 1 x 2 matrix, `MADDR` such that its image ends at `2^32`. -/
def storeState : State := { matrices (mat [[1, 2]]) {} with core.maddr := 0xFFFFFFFE }

/-- MstoreWritesTheImage and MloadAfterMstoreRestores. -/
theorem test_witness_mstore :
    storeState.mem.wf ∧ (storeState.mat (.m 0)).wf ∧ (storeState.mat (.m 0)).rows ≠ 0 ∧
    storeState.imageBase + (storeState.mat (.m 0)).rows * (storeState.mat (.m 0)).cols ≤ 2 ^ 32 ∧
    (storeState.mat (.m 1)).rows = 0 ∧
    ({ storeState with core.maddr := 0xFFFFFFFF } : State).imageBase +
      (storeState.mat (.m 0)).rows * (storeState.mat (.m 0)).cols > 2 ^ 32 ∧
    completes (.mstore (.m 0)) storeState = true ∧ (next (.mstore (.m 0)) storeState).core.status.err = 0 := by decide +kernel

/-- MmulWritesTheProduct: an empty source, disagreeing dimensions, agreeing ones. -/
theorem test_witness_mmul :
    (storeState.mat (.m 1)).rows = 0 ∧ (storeState.mat (.m 0)).cols ≠ (storeState.mat (.m 0)).rows ∧
    ((matrices (mat [[1, 2]]) (mat [[3], [4]])).mat (.m 0)).cols = ((matrices (mat [[1, 2]]) (mat [[3], [4]])).mat (.m 1)).rows ∧
    ((matrices (mat [[1, 2]]) (mat [[3], [4]])).mat (.m 0)).rows ≠ 0 ∧
    ((matrices (mat [[1, 2]]) (mat [[3], [4]])).mat (.m 1)).rows ≠ 0 := by decide +kernel

/-- MsubWritesTheListedRows: an empty source, a wrong count, a row one too high, the highest legal row. -/
theorem test_witness_msub :
    (rowListState.mat (.m 0)).rows = 0 ∧ (rowListState.mat .em).rows ≠ 0 ∧ (5 : Nat) ≠ (rowListState.mat .em).cols ∧
    (rowListState.mat .em).cols = 4 ∧ (∀ j < 4, (rowListState.selAt j).row.toNat < (rowListState.mat .em).rows) ∧
    (rowListState.selAt 0).row.toNat + 1 = (rowListState.mat .em).rows ∧
    ∃ j < 4, (rowListState.mat .em).rows ≤
      (({ rowListState with core.sel := selectors [{ row := 6 }] } : State).selAt j).row.toNat := by decide +kernel

/-- MinvWritesMatInvOrRaises: empty, not square, invertible, singular. -/
theorem test_witness_minv :
    ((matrices {} {}).mat (.m 0)).rows = 0 ∧ (storeState.mat (.m 0)).rows ≠ (storeState.mat (.m 0)).cols ∧
    matInv (mat [[2]]) = .ok (mat [[0x8E]]) ∧ matInv (mat [[0]]) = .error .singular ∧
    ((matrices (mat [[2]]) (mat [[0]])).mat (.m 0)) = mat [[2]] ∧
    ((matrices (mat [[2]]) (mat [[0]])).mat (.m 1)) = mat [[0]] := by decide +kernel

/-- MinvComputesTheInverse, the first clause. -/
theorem test_witness_minv_inverse :
    (mat [[2]]).wf ∧ (mat [[2]]).rows = 1 ∧ (mat [[2]]).cols = 1 ∧ ∃ B, matMul (mat [[2]]) B = .ok (matId 1) :=
  ⟨by decide +kernel, by decide +kernel, by decide +kernel, mat [[0x8E]], by decide +kernel⟩

/-- MinvComputesTheInverse, the second clause: nothing times zero is the identity. -/
theorem test_witness_minv_no_inverse : (mat [[0]]).wf ∧ ¬∃ B, matMul (mat [[0]]) B = .ok (matId 1) := by
  refine ⟨by decide +kernel, fun ⟨B, h⟩ => ?_⟩
  have hz : ∀ b : Byte, gfMul (matAt (mat [[0]]) 0 0) b ≠ 1 := by decide +kernel
  unfold matMul at h
  split at h
  · cases h
  · have hd := congrArg (fun A : Matrix => matAt A 0 0) (Except.ok.inj h)
    have hi : matAt (matId 1) 0 0 = 1 := by decide +kernel
    rw [hi] at hd
    cases hB : B.cols with
    | zero => simp [matAt, matOf, mat, hB] at hd
    | succ n =>
      refine hz (matAt B 0 0) (Eq.trans ?_ hd)
      simp [matAt, matOf, mat, hB, xorSum, List.range_succ_eq_map]

/-- CreateInstallsOrRaises, CreateBuildsSystematicMatrix and AnyKRowsAreInvertible: each bound of the test, and the sums 256
and 257. -/
theorem test_witness_create :
    ((0 : Nat) < 1 ∧ (255 : Nat) + 1 ≤ 256 ∧ (255 : Nat) + 2 > 256) ∧ buildEm 1 2 = .ok (mat [[1], [1], [1]]) ∧
    ([2] : List Nat).length = 1 ∧ ([2] : List Nat).Nodup ∧ ∀ r ∈ [2], r < 1 + 2 := by decide +kernel

/-- CodecCommandsShareChecks: no codec, unequal lengths, a window one byte too long, a shard one byte past `2^32`. -/
theorem test_witness_codec_checks :
    State.reset.core.cfg.valid = false ∧ mirrorState.core.cfg.valid = true ∧
    (let s := { mirrorState with core.shard := table [{ len := 3 }, { len := 4 }] }
     ∃ j < s.shardCount, s.shLen j ≠ s.shLen 0) ∧
    (let s := { mirrorState with core.off := 1 }
     s.offset + s.count = s.shLen 0 + 1) ∧
    (let s := { mirrorState with core.shard := table [{ base := 0xFFFFFFFE, len := 3 }, { len := 3 }] }
     ∃ j < s.shardCount, s.shBase j + s.shLen 0 = 2 ^ 32 + 1) := by decide +kernel

/-- EncodeWritesParity, VerifyComparesParity, ParityCorruptionIsDetected. -/
theorem test_witness_encode :
    Inv mirrorState ∧ CodecReady mirrorState ∧ overlapFree .encode mirrorState = true ∧
    exec .encode mirrorState = .next (next .encode mirrorState) :=
  ⟨mirror_inv, mirror_ready, by decide +kernel, exec_of_completes (by decide +kernel)⟩

/-- ParityCorruptionIsDetected: a byte of the window other than the right one, at the last position. -/
theorem test_witness_corruption :
    mirrorState.dataCount ≤ 1 ∧ 1 < mirrorState.shardCount ∧ 2 < mirrorState.count ∧
    (0xFF : Byte) ≠ (next .encode mirrorState).mem.read (mirrorState.shBase 1 + mirrorState.offset + 2) := by decide +kernel

/-- DecodeRebuildsMissingShards: too few, none missing, one missing; DecodeCompletesWithEnoughShards. -/
theorem test_witness_decode :
    (Inv mirrorMissing ∧ CodecReady mirrorMissing ∧ overlapFree .decode mirrorMissing = true) ∧
    (mirrorMissing.dataCount ≤ (presentShards mirrorMissing).length ∧
      (presentShards mirrorMissing).length < mirrorMissing.shardCount) ∧
    (matSub mirrorMissing.core.em ((presentShards mirrorMissing).take mirrorMissing.dataCount) = .ok (mat [[1]]) ∧
      matInv (mat [[1]]) = .ok (mat [[1]])) ∧
    (mirrorState.dataCount ≤ (presentShards mirrorState).length ∧
      (presentShards mirrorState).length = mirrorState.shardCount) ∧
    (let s := { mirrorState with core.shard := table [{ base := 0x100, len := 3 }, { base := 0x200, len := 3 }] }
     (presentShards s).length < s.dataCount) :=
  ⟨⟨mirrorMissing_inv, mirrorMissing_ready, by decide +kernel⟩, by decide +kernel, by decide +kernel, by decide +kernel,
    by decide +kernel⟩

/-- DecodeRestoresEncodedShards: `mirrorMissing` is `mirrorState` after ENCODE with its data shard lost. -/
theorem test_witness_decode_restores :
    (Inv mirrorState ∧ CodecReady mirrorState ∧ overlapFree .decode mirrorState = true ∧
      exec .encode mirrorState = .next (next .encode mirrorState)) ∧ Inv mirrorMissing ∧
    (mirrorMissing.core.cfg = mirrorState.core.cfg ∧ mirrorMissing.core.em = mirrorState.core.em ∧
      mirrorMissing.core.off = mirrorState.core.off ∧ mirrorMissing.core.cnt = mirrorState.core.cnt) ∧
    (∀ i < mirrorState.shardCount, mirrorMissing.shBase i = mirrorState.shBase i ∧ mirrorMissing.shLen i = mirrorState.shLen i) ∧
    mirrorState.dataCount ≤ (presentShards mirrorMissing).length ∧
    (∀ i < mirrorState.shardCount, (mirrorMissing.shardAt i).present = true → ∀ p < mirrorState.count,
      mirrorMissing.mem.read (mirrorState.shBase i + mirrorState.offset + p) =
        (next .encode mirrorState).mem.read (mirrorState.shBase i + mirrorState.offset + p)) :=
  ⟨⟨mirror_inv, mirror_ready, by decide +kernel, exec_of_completes (by decide +kernel)⟩, mirrorMissing_inv,
    by decide +kernel, by decide +kernel, by decide +kernel, by decide +kernel⟩

/-- EncodeWindowsAreIndependent: the window of 3 as 1 and 2. -/
theorem test_witness_windows :
    (1 : Word).toNat + (2 : Word).toNat = mirrorState.core.cnt.toNat ∧ completes .encode mirrorState = true ∧
    completes .encode { mirrorState with core.cnt := 1 } = true ∧
    completes .encode { next .encode { mirrorState with core.cnt := 1 } with
      core.off := mirrorState.core.off + 1, core.cnt := 2 } = true := by decide +kernel

/-- VerifyWindowsAreConjoined and DecodeWindowsAreIndependent: the window of 3 as 1 and 2, and as 3 and 0. -/
theorem test_witness_windows_of_decode :
    (CodecReady mirrorMissing ∧ Inv mirrorMissing ∧ overlapFree .decode mirrorMissing = true) ∧
    ((1 : Word).toNat + (2 : Word).toNat = mirrorMissing.core.cnt.toNat ∧
      (3 : Word).toNat + (0 : Word).toNat = mirrorMissing.core.cnt.toNat) ∧
    completes .decode mirrorMissing = true ∧ completes .decode { mirrorMissing with core.cnt := 1 } = true ∧
    completes .decode { next .decode { mirrorMissing with core.cnt := 1 } with
      core.off := mirrorMissing.core.off + 1, core.cnt := 2 } = true :=
  ⟨⟨mirrorMissing_ready, mirrorMissing_inv, by decide +kernel⟩, by decide +kernel, by decide +kernel, by decide +kernel,
    by decide +kernel⟩

/-- UnitAccessesAreThoseOfItsLoopNest: the last iteration of each order's list, at its rule's place. -/
theorem test_witness_loop_nests :
    (schedule (unitOrder 0) 2 3 4)[(3 * 2 + 1) * 3 + 2]? = some (.rmw 1 2 3) ∧
    (schedule (unitOrder 3) 2 3 4)[3 * 3 + 2]? = some (.acc 2 3) ∧
    (schedule (unitOrder 4) 2 3 4)[(1 * 4 + 3) * 3 + 2]? = some (.rmw 1 2 3) ∧
    (schedule (unitOrder 7) 2 3 4)[(1 * 3 + 2) * 4 + 3]? = some (.rmw 1 2 3) ∧
    (schedule (unitOrder 8) 2 3 4)[2 * 4 + 3]? = some (.acc 2 3) ∧
    (schedule (unitOrder 11) 2 3 4)[(2 * 2 + 1) * 4 + 3]? = some (.rmw 1 2 3) := by decide +kernel

/-- TwelveUnitsAreEquivalent: the output window begins where the input window ends, and ends at `2^32`. -/
theorem test_witness_units :
    let c : CodeCall := { mx := mat [[2]], rows := [0], ins := [0xFFFFFFFC], outs := [0xFFFFFFFE], off := 0, cnt := 2 }
    loopDone.wf ∧ 1 ≤ c.ins.length ∧ nonOverlapping c = true ∧
    (∀ o < c.outs.length, ∀ p < c.cnt, outAddr c o p < 2 ^ 32) ∧ 1 ≤ c.outs.length := by decide +kernel

theorem loop_ready : LoopReady (.m 0) 2 2 loopState := by unfold LoopReady BufferReady; decide +kernel

/-- CodeWritesCodedBytes, CheckComparesCodedBytes, OverlapRunsTheUnitLiterally; with `CNT = 3` LoopCommandsShareChecks. -/
theorem test_witness_loops :
    (loopState.mem.wf ∧ wellFormed (.code (.m 0) 2 2) = true ∧ overlapFree (.code (.m 0) 2 2) loopState = true) ∧
    LoopReady (.m 0) 2 2 loopState ∧ ¬LoopReady (.m 0) 2 2 { loopState with core.cnt := 3 } ∧
    ¬LoopReady (.m 1) 2 2 loopState ∧ ¬LoopReady (.m 0) 3 2 loopState :=
  ⟨by decide +kernel, loop_ready, by unfold LoopReady BufferReady; decide +kernel,
    by unfold LoopReady BufferReady; decide +kernel, by unfold LoopReady BufferReady; decide +kernel⟩

/-- OverlapRunsTheUnitLiterally, the DECODE clause. -/
theorem test_witness_decode_matrix : decodeMatrix mirrorMissing = .ok (mat [[1]]) := by decide +kernel

/-- PortMapIsTheTable and HostWriteTakesEffect: the ends of the map's ranges. -/
theorem test_witness_port :
    portLoc 0x0030 = some (.mdim 4) ∧ portLoc 0x0034 = some .reserved ∧ portLoc 0x007C = some (.x 15) ∧
    portLoc 0x0080 = some .reserved ∧ portLoc 0x07FC = some (.sel 255) ∧ portLoc 0x0FFC = some .reserved ∧
    portLoc 0x1FF8 = some (.shFlag 255) ∧ portLoc 0x1FFC = some .reserved ∧ portLoc 0x2000 = none ∧ portLoc 0x0006 = none ∧
    (11 : Word).toNat = (11 : Fin 12).val ∧ 12 ≤ (12 : Word).toNat := by decide +kernel

/-- UnspecifiedPortAccessIsRefused. -/
theorem test_witness_unspecified_port : (6 : Nat) % 4 ≠ 0 ∧ 0x2000 ≤ (0x2000 : Nat) := by decide

/-- HostStoreThenLoad, at the last address. -/
theorem test_witness_host_store :
    State.reset.mem.wf ∧ (0xFFFFFFFF : Nat) < 2 ^ 32 ∧
    ({ State.reset with host.pending := [.memWrite 0xFFFFFFFF 7, .memRead 0xFFFFFFFF] } : State).host.pending =
      .memWrite 0xFFFFFFFF 7 :: .memRead 0xFFFFFFFF :: [] := by decide +kernel

/-- HaltedUntilReset: a command word, a register write and reset all give a next state. -/
theorem test_witness_halted :
    haltedState.core.status.fatal = true ∧ (after (step (hostWrites 0 0 haltedState))).isSome = true ∧
    (after (step (hostWrites 0xC 7 haltedState))).isSome = true ∧
    (after (step { haltedState with host.pending := [.reset] })).isSome = true := by decide +kernel

/-- OnlyResetDropsTheCodec: a CREATE that replaces the codec, and one that raises. -/
theorem test_witness_codec_kept :
    mirrorState.core.cfg.valid = true ∧ mirrorState.core.em.rows ≠ 0 ∧
    (after (step (mirrorState.withFetchWord 32 0x30001002))).isSome = true ∧
    (after (step (mirrorState.withFetchWord 32 0x30000001))).isSome = true := by decide +kernel

/-- ResetSetsEveryRegister. -/
theorem test_witness_reset :
    ({ haltedState with host.pending := [.reset] } : State).host.pending = .reset :: [] := by decide +kernel

/-- StepKeepsInvariant, CoreNeverHalts and HostReadReturnsTheValue. -/
theorem test_witness_invariant :
    Inv State.reset ∧ Running State.reset ∧ step State.reset = .next State.reset ∧
    Inv mirrorState ∧ Running mirrorState ∧ (after (step (mirrorState.withFetchWord 32 0x42000000))).isSome = true :=
  ⟨reset_inv, rfl, rfl, mirror_inv, rfl, by decide +kernel⟩

/-- Two instances with a 1 x 2 matrix in `m0`, storing at 0x10 and at 0x12. -/
def twoCores : System :=
  { cores := [{ storeState.core with maddr := 0x10 }, { storeState.core with maddr := 0x12 }], mem := [] }

/-- DisjointCommandsCommute: two MSTOREs to adjacent images. -/
theorem test_witness_disjoint :
    decode 0x21000000 = .ok (.mstore (.m 0)) ∧
    footprintsDisjoint (.mstore (.m 0)) (instanceState twoCores { storeState.core with maddr := 0x10 })
      (.mstore (.m 0)) (instanceState twoCores { storeState.core with maddr := 0x12 }) := by
  refine ⟨by decide +kernel, fun a => ?_⟩
  have h1 : writeFootprint (.mstore (.m 0)) (instanceState twoCores { storeState.core with maddr := 0x10 }) = [⟨0x10, 2⟩] := by
    decide +kernel
  have h2 : writeFootprint (.mstore (.m 0)) (instanceState twoCores { storeState.core with maddr := 0x12 }) = [⟨0x12, 2⟩] := by
    decide +kernel
  rw [h1, h2]
  simp only [inFootprint, readFootprint, inRange, List.any_cons, List.any_nil, Bool.or_false, Bool.and_eq_true,
    Bool.and_eq_false_iff, decide_eq_true_eq, decide_eq_false_iff_not]
  constructor <;> (intro h; refine ⟨trivial, ?_⟩; omega)

/-- DisjointCommandsCommute: the other hypotheses. -/
theorem test_witness_disjoint_cores :
    twoCores.cores[0]? = some { storeState.core with maddr := 0x10 } ∧
    twoCores.cores[1]? = some { storeState.core with maddr := 0x12 } ∧ twoCores.mem.wf ∧
    storeState.core.status.fatal = false := ⟨rfl, rfl, by decide +kernel, rfl⟩

end Sys2Proof.Tests
end

section
/-! SUPPORT and the proof of O8. How a command ends (R10): it completes, or it raises one condition. -/

namespace Sys2Proof.Machine

/-- R10's two ways for a command on `s` to end; `b` says whether its Singular is fatal (R196, R215). -/
inductive CommandEnd (b : Bool) (s : State) : Host.Outcome State Fault Refusal → Prop
  /-- All writes performed on the way to `u`, then `ERR = 0`. -/
  | completes (u : State) : CommandEnd b s (complete u)
  /-- One condition, raised on the state the command began in. -/
  | raises (c : Condition) : CommandEnd b s (raise b c s)

/-- The next state of a command that ends as R10 says: `ERR = 0`, or the old state with `STATUS` alone rewritten. -/
theorem CommandEnd.exists_next {b : Bool} {s : State} {o : Host.Outcome State Fault Refusal} (h : CommandEnd b s o) :
    ∃ t, o = .next t ∧ (t.core.status.err = 0 ∨ ∃ c : Condition, t = { s with
      core.status.err := conditionCode c
      core.status.fatal := s.core.status.fatal || (b && c == .singular) }) := by
  cases h with
  | completes u => exact ⟨u.setErr 0, complete_eq_next.mpr rfl, .inl (State.setErr_err u 0)⟩
  | raises c => exact ⟨raised b c s, raise_eq_next.mpr rfl, .inr ⟨c, raised_eq b c s⟩⟩

theorem finishField_ends (d : Fin 16) (r : Except Condition Byte) (s : State) :
    CommandEnd false s (finishField d r s) := by
  cases r with
  | ok v => exact .completes _
  | error c => exact .raises c

theorem finishMatrix_ends (d : Fin 4) (r : Except Condition Matrix) (s : State) :
    CommandEnd false s (finishMatrix d r s) := by
  cases r with
  | ok A => exact .completes _
  | error c => exact .raises c

/-- A check that may raise, before a command that ends as R10 says. -/
theorem CommandEnd.guarded {b : Bool} {s : State} {o : Host.Outcome State Fault Refusal} {p : Prop} [Decidable p]
    (c : Condition) (h : CommandEnd b s o) : CommandEnd b s (if p then raise b c s else o) := by
  split
  · exact .raises c
  · exact h

theorem execMload_ends (d : Fin 4) (rows cols : Nat) (s : State) : CommandEnd false s (execMload d rows cols s) :=
  .guarded _ (.completes _)

theorem execMstore_ends (ms : MatSrc) (s : State) : CommandEnd false s (execMstore ms s) :=
  .guarded _ (.guarded _ (.completes _))

theorem execMmul_ends (d : Fin 4) (ma mb : MatSrc) (s : State) : CommandEnd false s (execMmul d ma mb s) :=
  .guarded _ (.guarded _ (finishMatrix_ends d _ s))

theorem execMsub_ends (d : Fin 4) (ms : MatSrc) (n : Nat) (s : State) : CommandEnd false s (execMsub d ms n s) :=
  .guarded _ (finishMatrix_ends d _ s)

theorem execMinv_ends (d : Fin 4) (ms : MatSrc) (s : State) : CommandEnd false s (execMinv d ms s) :=
  .guarded _ (finishMatrix_ends d _ s)

theorem execCreate_ends (k m : Nat) (s : State) : CommandEnd true s (execCreate k m s) := by
  refine .guarded _ ?_
  cases buildEm k m with
  | error c => exact .raises c
  | ok E => exact .completes _

theorem execEncode_ends (s : State) : CommandEnd false s (execEncode s) := by
  unfold execEncode
  cases codecCheck s with
  | some c => exact .raises c
  | none => exact .completes _

theorem execVerify_ends (s : State) : CommandEnd false s (execVerify s) := by
  unfold execVerify
  cases codecCheck s with
  | some c => exact .raises c
  | none => exact .completes _

theorem execDecode_ends (s : State) : CommandEnd true s (execDecode s) := by
  unfold execDecode
  cases codecCheck s with
  | some c => exact .raises c
  | none =>
    refine .guarded _ ?_
    split
    · exact .completes s
    · cases decodeMatrix s with
      | error c => exact .raises c
      | ok D => exact .completes _

theorem execCode_ends (ms : MatSrc) (nin nout : Nat) (s : State) : CommandEnd false s (execCode ms nin nout s) := by
  unfold execCode
  cases loopCheck ms nin nout s with
  | some c => exact .raises c
  | none => exact .completes _

theorem execCheck_ends (ms : MatSrc) (nin nout : Nat) (s : State) : CommandEnd false s (execCheck ms nin nout s) := by
  unfold execCheck
  cases loopCheck ms nin nout s with
  | some c => exact .raises c
  | none => exact .completes _

/-- Every command ends as R10 says, and only CREATE and DECODE raise a Singular that is fatal. -/
theorem exec_ends (i : Instr) (s : State) : CommandEnd (invertsOwnMatrix i) s (exec i s) := by
  cases i with
  | nop => exact .completes s
  | gfadd d a b => exact finishField_ends d (.ok _) s
  | gfmul d a b => exact finishField_ends d (.ok _) s
  | gfmulx d a b => exact finishField_ends d (.ok _) s
  | gfdiv d a b => exact finishField_ends d _ s
  | gfinv d a => exact finishField_ends d _ s
  | gfexp d a => exact finishField_ends d (.ok _) s
  | mload d rows cols => exact execMload_ends d rows cols s
  | mstore ms => exact execMstore_ends ms s
  | mmul d ma mb => exact execMmul_ends d ma mb s
  | msub d ms n => exact execMsub_ends d ms n s
  | minv d ms => exact execMinv_ends d ms s
  | create k m => exact execCreate_ends k m s
  | encode => exact execEncode_ends s
  | verify => exact execVerify_ends s
  | decode => exact execDecode_ends s
  | code ms nin nout => exact execCode_ends ms nin nout s
  | check ms nin nout => exact execCheck_ends ms nin nout s

/-- Settles O8: each command's arm ends in `complete` or in `raise`, and both are next states of the shape R10 asks for. -/
theorem commandCompletesOrRaises : Obligations.CommandCompletesOrRaises := by
  unfold Obligations.CommandCompletesOrRaises
  intro i s
  exact (exec_ends i s).exists_next

end Sys2Proof.Machine
end

section
/-! SUPPORT. Values that the commands write are legal: the shapes of matrices (R37), and the windows of calls (R60). -/

namespace Sys2Proof.Machine

/-! ### Shapes of matrices -/

/-- R194's bounds, read off the test. -/
theorem counts_of_legalConfig {k m : Nat} (h : legalConfig k m = true) : 1 ≤ k ∧ 1 ≤ m ∧ k + m ≤ 256 := by
  simpa [legalConfig, and_assoc] using h

theorem matOf_wf {rows cols : Nat} (f : Nat → Nat → Byte) (hr : 1 ≤ rows ∧ rows ≤ Config.maxDim)
    (hc : 1 ≤ cols ∧ cols ≤ Config.maxDim) : (matOf rows cols f).wf := by
  refine .inr ⟨hr.1, hr.2, hc.1, hc.2, by simp [matOf], fun row hrow => ?_⟩
  obtain ⟨r, -, rfl⟩ := List.mem_map.mp hrow
  simp [matOf]

/-- A source that passes the empty-register check (R171) has between 1 and 256 rows and columns (R37). -/
theorem Matrix.wf.dims {A : Matrix} (h : A.wf) (hne : ¬isEmptyMatrix A = true) :
    (1 ≤ A.rows ∧ A.rows ≤ Config.maxDim) ∧ 1 ≤ A.cols ∧ A.cols ≤ Config.maxDim := by
  rcases h with ⟨h0, -⟩ | ⟨hr, hr', hc, hc', -⟩
  · simp [isEmptyMatrix, h0] at hne
  · exact ⟨⟨hr, hr'⟩, hc, hc'⟩

theorem eq_matOf_of_matMul_ok {A B P : Matrix} (h : matMul A B = .ok P) :
    ∃ f, P = matOf A.rows B.cols f := by
  unfold matMul at h
  split at h
  · cases h
  · exact ⟨_, (Except.ok.inj h).symm⟩

theorem eq_matOf_of_matSub_ok {A S : Matrix} {L : List Nat} (h : matSub A L = .ok S) :
    ∃ f, S = matOf A.cols A.cols f := by
  unfold matSub at h
  split at h
  · cases h
  split at h
  · cases h
  · exact ⟨_, (Except.ok.inj h).symm⟩

theorem eq_matOf_of_matInv_ok {A B : Matrix} (h : matInv A = .ok B) :
    A.rows = A.cols ∧ ∃ f, B = matOf A.rows A.rows f := by
  unfold matInv at h
  split at h
  · cases h
  next hsq =>
    split at h
    · cases h
    · exact ⟨not_not.mp hsq, _, (Except.ok.inj h).symm⟩

/-- The encoding matrix has `k + m` rows of `k` elements (R191). -/
theorem eq_matOf_of_buildEm_ok {k m : Nat} {E : Matrix} (h : buildEm k m = .ok E) : ∃ f, E = matOf (k + m) k f := by
  unfold buildEm at h
  split at h
  · cases h
  next T hT =>
    obtain ⟨f, rfl⟩ := eq_matOf_of_matSub_ok hT
    split at h
    · cases h
    next Ti hTi =>
      obtain ⟨-, g, rfl⟩ := eq_matOf_of_matInv_ok hTi
      exact eq_matOf_of_matMul_ok h

theorem buildEm_wf {k m : Nat} {E : Matrix} (hl : legalConfig k m = true) (h : buildEm k m = .ok E) : E.wf := by
  obtain ⟨f, rfl⟩ := eq_matOf_of_buildEm_ok h
  obtain ⟨hk, hm, hkm⟩ := counts_of_legalConfig hl
  exact matOf_wf f ⟨by omega, hkm⟩ ⟨hk, Nat.le_trans (Nat.le_add_right k m) hkm⟩

/-! ### The buffers of a call whose checks passed (R210, R259) lie in the address space -/

/-- Every window that the call writes lies below `2^32` (R60). -/
def CodeCall.OutputsInMemory (c : CodeCall) : Prop := ∀ b ∈ c.outs, b + c.off + c.cnt ≤ Config.memSize

theorem CodeCall.OutputsInMemory.runCode_wf {c : CodeCall} (h : c.OutputsInMemory) (u : Fin 12) {mem : Memory}
    (hm : mem.wf) : (runCode u c mem).wf := by
  refine Machine.runCode_wf u c hm fun o p ho hp => ?_
  have hb := h (c.outs.getD o 0) (by rw [List.getD_eq_getElem _ _ ho]; exact List.getElem_mem ho)
  unfold outAddr
  omega

/-- The windows of shards below `n`, after R210's checks. -/
theorem shardOutputs_inMemory {s : State} {c : CodeCall} {is : List Nat} (hcheck : codecCheck s = none)
    (his : ∀ i ∈ is, i < s.shardCount) (houts : c.outs = is.map s.shBase) (hoff : c.off = s.offset)
    (hcnt : c.cnt = s.count) : c.OutputsInMemory := by
  obtain ⟨-, -, hwindow, hspace⟩ := codecCheck_eq_none.mp hcheck
  intro b hb
  rw [houts] at hb
  obtain ⟨i, hi, rfl⟩ := List.mem_map.mp hb
  have := hspace i (his i hi)
  omega

theorem mem_parityIndices_lt {s : State} {i : Nat} (h : i ∈ parityIndices s) : i < s.shardCount :=
  List.mem_range.mp (List.mem_of_mem_drop h)

theorem parityCall_inMemory {s : State} (h : codecCheck s = none) : (parityCall s).OutputsInMemory :=
  shardOutputs_inMemory h (fun _ => mem_parityIndices_lt) rfl rfl rfl

theorem dataCall_inMemory {s : State} (h : codecCheck s = none) (D : Matrix) : (dataCall s D).OutputsInMemory := by
  refine shardOutputs_inMemory (is := missingData s) h (fun i hi => ?_) rfl rfl rfl
  have hi : i < s.dataCount := List.mem_range.mp (List.mem_of_mem_filter hi)
  unfold State.dataCount at hi
  unfold State.shardCount
  omega

theorem missingParityCall_inMemory {s : State} (h : codecCheck s = none) : (missingParityCall s).OutputsInMemory :=
  shardOutputs_inMemory (is := missingParity s) h
    (fun _ hi => mem_parityIndices_lt (List.mem_of_mem_filter hi)) rfl rfl rfl

theorem loopCall_inMemory {ms : MatSrc} {nin nout : Nat} {s : State} (h : loopCheck ms nin nout s = none) :
    (loopCall ms nin nout s).OutputsInMemory := by
  obtain ⟨-, -, -, -, hbuf⟩ := loopCheck_eq_none.mp h
  intro b hb
  obtain ⟨o, ho, rfl⟩ := List.mem_map.mp (show b ∈ s.selOuts nout from hb)
  have hgood := hbuf o (List.mem_range.mp ho)
  simp only [badBuffer, Bool.or_eq_false_iff, decide_eq_false_iff_not] at hgood
  show s.shBase _ + s.offset + s.count ≤ _
  omega

/-- The memory that DECODE leaves is canonical: each of its two runs keeps the form. -/
theorem decodeMemory_wf {s : State} (h : codecCheck s = none) (D : Matrix) (hm : s.mem.wf) : (decodeMemory s D).wf := by
  have hdata : Memory.wf (if (missingData s).isEmpty then s.mem else runCode s.core.strat (dataCall s D) s.mem) := by
    split
    · exact hm
    · exact (dataCall_inMemory h D).runCode_wf _ hm
  unfold decodeMemory
  dsimp only
  split
  · exact hdata
  · exact (missingParityCall_inMemory h).runCode_wf _ hdata

theorem matImage_length (A : Matrix) : (matImage A).length = A.rows * A.cols :=
  length_flatMap_range fun _ _ => by simp

end Sys2Proof.Machine
end

section
/-! SUPPORT. A command that the decoder answers has counts in R93's ranges. -/

namespace Sys2Proof

theorem ok_of_bind_eq_ok {α β : Type} {x : Except DecodeError α} {f : α → Except DecodeError β} {b : β}
    (h : x >>= f = .ok b) : ∃ a, x = .ok a ∧ f a = .ok b := by
  cases x with
  | error e => cases h
  | ok a => exact ⟨a, rfl, h⟩

/-- Once its unused fields are zero, a command is what the rest of its decoder answers. -/
theorem ok_of_needZero_bind {fs : List Nat} {α : Type} {r : Except DecodeError α} {a : α}
    (h : (needZero fs >>= fun _ => r) = .ok a) : r = .ok a := by
  obtain ⟨-, -, h⟩ := ok_of_bind_eq_ok h
  exact h

theorem eq_of_decode0_ok {i j : Instr} {w : Word} (h : decode0 i w = .ok j) : j = i :=
  (Except.ok.inj (ok_of_needZero_bind h)).symm

theorem eq_of_decode2_ok {mk : Fin 16 → Fin 16 → Instr} {j : Instr} {w : Word} (h : decode2 mk w = .ok j) :
    ∃ d a, j = mk d a :=
  ⟨_, _, (Except.ok.inj (ok_of_needZero_bind h)).symm⟩

theorem eq_of_decode3_ok {mk : Fin 16 → Fin 16 → Fin 16 → Instr} {j : Instr} {w : Word} (h : decode3 mk w = .ok j) :
    ∃ d a b, j = mk d a b :=
  ⟨_, _, _, (Except.ok.inj (ok_of_needZero_bind h)).symm⟩

theorem eq_of_decodeLoop_ok {mk : MatSrc → Nat → Nat → Instr} {j : Instr} {w : Word} (h : decodeLoop mk w = .ok j) :
    ∃ ms, j = mk ms (fieldP w + 1) (fieldQ w + 1) := by
  obtain ⟨ms, -, h⟩ := ok_of_bind_eq_ok (ok_of_needZero_bind h)
  exact ⟨ms, (Except.ok.inj h).symm⟩

theorem countOk_succ {n : Nat} (h : n < 256) : countOk (n + 1) = true := by
  simpa [countOk] using h

@[simp] theorem countOk_fieldP (w : Word) : countOk (fieldP w + 1) = true := countOk_succ (Nat.mod_lt _ (by decide))

@[simp] theorem countOk_fieldQ (w : Word) : countOk (fieldQ w + 1) = true := countOk_succ (Nat.mod_lt _ (by decide))

theorem count12Ok_of_lt {n : Nat} (h : n < 4096) : count12Ok n = true := by
  simpa [count12Ok] using Nat.le_of_lt_succ h

@[simp] theorem count12Ok_fieldK12 (w : Word) : count12Ok (fieldK12 w) = true := count12Ok_of_lt (Nat.mod_lt _ (by decide))

@[simp] theorem count12Ok_fieldM12 (w : Word) : count12Ok (fieldM12 w) = true := count12Ok_of_lt (Nat.mod_lt _ (by decide))

theorem decode_wellFormed {w : Word} {i : Instr} (h : decode w = .ok i) : wellFormed i = true := by
  unfold decode at h
  cases hop : opcodeOf (fieldOp w) with
  | none => simp [hop] at h
  | some c =>
    rw [hop] at h
    cases c with
    | nop | encode | verify | decode => rw [eq_of_decode0_ok h]; rfl
    | gfadd | gfmul | gfmulx | gfdiv => obtain ⟨d, a, b, rfl⟩ := eq_of_decode3_ok h; rfl
    | gfinv | gfexp => obtain ⟨d, a, rfl⟩ := eq_of_decode2_ok h; rfl
    | mload =>
      obtain ⟨d, -, h⟩ := ok_of_bind_eq_ok (ok_of_needZero_bind h)
      cases h
      simp [wellFormed]
    | mstore =>
      obtain ⟨ms, -, h⟩ := ok_of_bind_eq_ok (ok_of_needZero_bind h)
      cases h
      rfl
    | mmul =>
      obtain ⟨d, -, h⟩ := ok_of_bind_eq_ok (ok_of_needZero_bind h)
      obtain ⟨ma, -, h⟩ := ok_of_bind_eq_ok h
      obtain ⟨mb, -, h⟩ := ok_of_bind_eq_ok h
      cases h
      rfl
    | msub =>
      obtain ⟨d, -, h⟩ := ok_of_bind_eq_ok (ok_of_needZero_bind h)
      obtain ⟨ms, -, h⟩ := ok_of_bind_eq_ok h
      cases h
      exact countOk_fieldQ w
    | minv =>
      obtain ⟨d, -, h⟩ := ok_of_bind_eq_ok (ok_of_needZero_bind h)
      obtain ⟨ms, -, h⟩ := ok_of_bind_eq_ok h
      cases h
      rfl
    | create =>
      cases h
      simp [wellFormed]
    | code | check =>
      obtain ⟨ms, rfl⟩ := eq_of_decodeLoop_ok h
      simp [wellFormed]

end Sys2Proof
end

section
/-! SUPPORT and the proofs of O9 and O10. What a command can do, said once for all eighteen of them. -/

namespace Sys2Proof.Machine

/-- The commands that write a scalar register (R20, R21). -/
abbrev fieldOpcodes : List Opcode := [.gfadd, .gfmul, .gfmulx, .gfdiv, .gfinv, .gfexp]

/-- The commands that write a matrix register (R20, R37). -/
abbrev matrixOpcodes : List Opcode := [.mload, .mmul, .msub, .minv]

/-- The commands that write `MATCH` (R23). -/
abbrev compareOpcodes : List Opcode := [.verify, .check]

/-- The commands that write shard memory (R64). -/
abbrev memoryOpcodes : List Opcode := [.mstore, .encode, .decode, .code]

/-- What a command can do to the machine, one constructor per kind of state it writes (R20), with the facts about the
written value that keep the state legal. -/
inductive CommandEffect (i : Instr) (s : State) : Host.Outcome State Fault Refusal → Prop
  /-- R301. -/
  | raises (c : Condition) : CommandEffect i s (raise (invertsOwnMatrix i) c s)
  /-- NOP, and DECODE with no shard missing. -/
  | writesNothing (hi : instrOpcode i ∈ [.nop, .decode]) : CommandEffect i s (complete s)
  | writesX (hi : instrOpcode i ∈ fieldOpcodes) (d : Fin 16) (v : Byte) :
      CommandEffect i s (complete (s.writeX d v))
  | writesM (hi : instrOpcode i ∈ matrixOpcodes) (d : Fin 4) (A : Matrix)
      (hA : wellFormed i = true → (∀ ms, (s.mat ms).wf) → A.wf) : CommandEffect i s (complete (s.writeM d A))
  | writesCodec (hi : instrOpcode i = .create) (k m : Nat) (E : Matrix) (hkm : legalConfig k m = true)
      (hE : buildEm k m = .ok E) : CommandEffect i s (complete (s.writeCodec k m E))
  | writesMatch (hi : instrOpcode i ∈ compareOpcodes) (b : Bool) : CommandEffect i s (complete (s.setMatch b))
  | writesMem (hi : instrOpcode i ∈ memoryOpcodes) (mem : Memory) (hmem : s.mem.wf → mem.wf) :
      CommandEffect i s (complete (s.setMem mem))

/-- A check that may raise, before the command's effect. -/
theorem CommandEffect.guarded {i : Instr} {s : State} {o : Host.Outcome State Fault Refusal} {p : Prop} [Decidable p]
    (c : Condition) (h : ¬p → CommandEffect i s o) :
    CommandEffect i s (if p then raise (invertsOwnMatrix i) c s else o) := by
  split
  · exact .raises c
  next hp => exact h hp

/-! ### The shared forms, and each command -/

theorem finishField_effect {i : Instr} (hi : instrOpcode i ∈ fieldOpcodes)
    (hb : invertsOwnMatrix i = false) (d : Fin 16) (r : Except Condition Byte) (s : State) :
    CommandEffect i s (finishField d r s) := by
  cases r with
  | error c => rw [finishField_error, ← hb]; exact .raises c
  | ok v => exact .writesX hi d v

theorem finishMatrix_effect {i : Instr} {s : State} (hi : instrOpcode i ∈ matrixOpcodes)
    (hb : invertsOwnMatrix i = false) (d : Fin 4) {r : Except Condition Matrix}
    (hr : ∀ A, r = .ok A → (∀ ms, (s.mat ms).wf) → A.wf) : CommandEffect i s (finishMatrix d r s) := by
  cases r with
  | error c => rw [finishMatrix_error, ← hb]; exact .raises c
  | ok A => exact .writesM hi d A fun _ => hr A rfl

theorem execMload_effect (d : Fin 4) (rows cols : Nat) (s : State) :
    CommandEffect (.mload d rows cols) s (execMload d rows cols s) := by
  refine .guarded _ fun _ => .writesM (by simp [instrOpcode]) d _ fun hwf _ => ?_
  simp only [wellFormed, countOk, Bool.and_eq_true, decide_eq_true_eq] at hwf
  exact matOf_wf _ hwf.1 hwf.2

theorem execMstore_effect (ms : MatSrc) (s : State) : CommandEffect (.mstore ms) s (execMstore ms s) :=
  .guarded _ fun _ => .guarded _ fun hfits => .writesMem (by simp [instrOpcode]) _ fun hm =>
    Memory.writeBytes_wf hm _ _ (by rw [matImage_length]; exact Nat.le_of_not_gt hfits)

theorem execMmul_effect (d : Fin 4) (ma mb : MatSrc) (s : State) :
    CommandEffect (.mmul d ma mb) s (execMmul d ma mb s) := by
  refine .guarded _ fun ha => .guarded _ fun hb => finishMatrix_effect (by simp [instrOpcode]) rfl d fun P hP hms => ?_
  obtain ⟨f, rfl⟩ := eq_matOf_of_matMul_ok hP
  exact matOf_wf f ((hms ma).dims ha).1 ((hms mb).dims hb).2

theorem execMsub_effect (d : Fin 4) (ms : MatSrc) (n : Nat) (s : State) :
    CommandEffect (.msub d ms n) s (execMsub d ms n s) := by
  refine .guarded _ fun hne => finishMatrix_effect (by simp [instrOpcode]) rfl d fun S hS hms => ?_
  obtain ⟨f, rfl⟩ := eq_matOf_of_matSub_ok hS
  have hcols := ((hms ms).dims hne).2
  exact matOf_wf f hcols hcols

theorem execMinv_effect (d : Fin 4) (ms : MatSrc) (s : State) : CommandEffect (.minv d ms) s (execMinv d ms s) := by
  refine .guarded _ fun hne => finishMatrix_effect (by simp [instrOpcode]) rfl d fun B hB hms => ?_
  obtain ⟨-, f, rfl⟩ := eq_matOf_of_matInv_ok hB
  have hrows := ((hms ms).dims hne).1
  exact matOf_wf f hrows hrows

theorem execCreate_effect (k m : Nat) (s : State) : CommandEffect (.create k m) s (execCreate k m s) := by
  refine .guarded _ fun hlegal => ?_
  cases hE : buildEm k m with
  | error c => exact .raises c
  | ok E => exact .writesCodec rfl k m E (by simpa using hlegal) hE

theorem execEncode_effect (s : State) : CommandEffect .encode s (execEncode s) := by
  unfold execEncode
  cases hcheck : codecCheck s with
  | some c => exact .raises c
  | none => exact .writesMem (by simp [instrOpcode]) _ ((parityCall_inMemory hcheck).runCode_wf _)

theorem execVerify_effect (s : State) : CommandEffect .verify s (execVerify s) := by
  unfold execVerify
  cases codecCheck s with
  | some c => exact .raises c
  | none => exact .writesMatch (by simp [instrOpcode]) _

theorem execDecode_effect (s : State) : CommandEffect .decode s (execDecode s) := by
  unfold execDecode
  cases hcheck : codecCheck s with
  | some c => exact .raises c
  | none =>
    refine .guarded _ fun _ => ?_
    split
    · exact .writesNothing (by simp [instrOpcode])
    · cases decodeMatrix s with
      | error c => exact .raises c
      | ok D => exact .writesMem (by simp [instrOpcode]) _ (decodeMemory_wf hcheck D)

theorem execCode_effect (ms : MatSrc) (nin nout : Nat) (s : State) :
    CommandEffect (.code ms nin nout) s (execCode ms nin nout s) := by
  unfold execCode
  cases hcheck : loopCheck ms nin nout s with
  | some c => exact .raises c
  | none => exact .writesMem (by simp [instrOpcode]) _ ((loopCall_inMemory hcheck).runCode_wf _)

theorem execCheck_effect (ms : MatSrc) (nin nout : Nat) (s : State) :
    CommandEffect (.check ms nin nout) s (execCheck ms nin nout s) := by
  unfold execCheck
  cases loopCheck ms nin nout s with
  | some c => exact .raises c
  | none => exact .writesMatch (by simp [instrOpcode]) _

/-- Every command raises, or it writes one kind of state and completes. -/
theorem exec_effect (i : Instr) (s : State) : CommandEffect i s (exec i s) := by
  cases i with
  | nop => exact .writesNothing (by simp [instrOpcode])
  | gfadd d a b => exact finishField_effect (by simp [instrOpcode]) rfl d (.ok _) s
  | gfmul d a b => exact finishField_effect (by simp [instrOpcode]) rfl d (.ok _) s
  | gfmulx d a b => exact finishField_effect (by simp [instrOpcode]) rfl d (.ok _) s
  | gfdiv d a b => exact finishField_effect (by simp [instrOpcode]) rfl d _ s
  | gfinv d a => exact finishField_effect (by simp [instrOpcode]) rfl d _ s
  | gfexp d a => exact finishField_effect (by simp [instrOpcode]) rfl d (.ok _) s
  | mload d rows cols => exact execMload_effect d rows cols s
  | mstore ms => exact execMstore_effect ms s
  | mmul d ma mb => exact execMmul_effect d ma mb s
  | msub d ms n => exact execMsub_effect d ms n s
  | minv d ms => exact execMinv_effect d ms s
  | create k m => exact execCreate_effect k m s
  | encode => exact execEncode_effect s
  | verify => exact execVerify_effect s
  | decode => exact execDecode_effect s
  | code ms nin nout => exact execCode_effect ms nin nout s
  | check ms nin nout => exact execCheck_effect ms nin nout s

/-- The state after a command, by the kind of its effect. -/
theorem exec_next {i : Instr} {s t : State} (h : exec i s = .next t) : CommandEffect i s (.next t) := h ▸ exec_effect i s

/-! ### Frames of all commands -/

theorem invertsOwnMatrix_eq_false {i : Instr} (h : instrOpcode i ∉ [.create, .decode]) : invertsOwnMatrix i = false := by
  simpa [invertsOwnMatrix] using h

/-- Settles O9: no effect of a command touches a control register, a selector, a descriptor or the host's side. -/
theorem noCommandWritesControlRegisters : Obligations.NoCommandWritesControlRegisters := by
  unfold Obligations.NoCommandWritesControlRegisters
  intro i s t h
  cases exec_next h with
  | raises c => simp
  | writesNothing hi => simp
  | writesX hi d v => simp
  | writesM hi d A hA => simp
  | writesCodec hi k m E hkm hE => simp
  | writesMatch hi b => simp
  | writesMem hi mem hmem => simp

/-- Settles O10: the effect that writes a kind of state is one of the commands that R20 names for it. -/
theorem stateWrittenOnlyByItsCommands : Obligations.StateWrittenOnlyByItsCommands := by
  unfold Obligations.StateWrittenOnlyByItsCommands
  intro i s t h
  cases exec_next h with
  | raises c =>
    have hfatal : instrOpcode i ∉ [.create, .decode] →
        (raised (invertsOwnMatrix i) c s).core.status.fatal = s.core.status.fatal := fun hi => by
      simp [invertsOwnMatrix_eq_false hi]
    simpa using hfatal
  | writesNothing hi => simp
  | writesX hi d v => exact ⟨absurd hi, by simp⟩
  | writesM hi d A hA => exact ⟨by simp, absurd hi, by simp⟩
  | writesCodec hi k m E hkm hE => exact ⟨by simp, by simp, absurd hi, by simp⟩
  | writesMatch hi b => exact ⟨by simp, by simp, by simp, absurd hi, by simp⟩
  | writesMem hi mem hmem => exact ⟨by simp, by simp, by simp, by simp, by simp, absurd hi⟩

end Sys2Proof.Machine
end

section
/-! SUPPORT and the proofs of O53 and O54. The invariant under each operation on the state, under each
command and under each transaction. -/

namespace Sys2Proof.Machine

/-! ### Operations on the state -/

theorem Inv.mat_wf {s : State} (h : Inv s) (ms : MatSrc) : (s.mat ms).wf := by
  cases ms with
  | m j => exact h.core.matrices j
  | em => exact h.core.encoding

/-- Matrix registers, `em` and `CFG` as before, and a legal `STATUS`. -/
theorem CoreInv.of_status {c d : CoreState} (h : CoreInv c) (hm : d.m = c.m) (hem : d.em = c.em) (hcfg : d.cfg = c.cfg)
    (hcode7 : d.status.err ≠ 7) (hhalted : d.status.fatal = true → d.status.err = 5) : CoreInv d where
  matrices := hm ▸ h.matrices
  encoding := hem ▸ h.encoding
  codec := by
    unfold CodecInv
    rw [hcfg, hem]
    exact h.codec
  code7 := hcode7
  halted := hhalted

/-- A command that completes was accepted by a running core, so `ERR = 0` meets no `FATAL` (R303). -/
theorem Inv.setErr_zero {u : State} (h : Inv u) (hrun : Running u) : Inv (u.setErr 0) where
  core := h.core.of_status rfl rfl rfl (by simp) fun hfatal => absurd (hrun.symm.trans hfatal) (by simp)
  mem := h.mem

/-- A raise on a running core sets `FATAL` together with code 5 only (R300, R301). -/
theorem Inv.raised {s : State} (h : Inv s) (hrun : Running s) (b : Bool) (c : Condition) : Inv (raised b c s) where
  core := by
    refine h.core.of_status (by simp) (by simp) (by simp) ?_ fun hfatal => ?_
    · simpa using (conditionCode_range c).2
    · have hrun : s.core.status.fatal = false := hrun
      rw [raised_err, conditionCode_eq_five]
      simp only [raised_fatal, hrun, Bool.false_or, Bool.and_eq_true, beq_iff_eq] at hfatal
      exact hfatal.2
  mem := by simpa using h.mem

theorem Inv.writeX {s : State} (h : Inv s) (d : Fin 16) (v : Byte) : Inv (s.writeX d v) where
  core := h.core.of_status rfl rfl rfl h.core.code7 h.core.halted
  mem := h.mem

theorem Inv.writeM {s : State} (h : Inv s) (d : Fin 4) {A : Matrix} (hA : A.wf) : Inv (s.writeM d A) where
  core :=
    { matrices := fun j => by
        have hj := h.core.matrices j
        simp only [State.writeM_m, Fin.getElem_fin, Vector.getElem_set]
        split
        · exact hA
        · exact hj
      encoding := h.core.encoding
      codec := h.core.codec
      code7 := h.core.code7
      halted := h.core.halted }
  mem := h.mem

/-- Legal counts survive in `CFG.K` and `CFG.M`: both are below 256 (R26, R194). -/
theorem toNat_ofNat_of_legal {k m : Nat} (h : legalConfig k m = true) :
    (BitVec.ofNat 8 k).toNat = k ∧ (BitVec.ofNat 8 m).toNat = m := by
  obtain ⟨hk, hm, hkm⟩ := counts_of_legalConfig h
  exact ⟨Nat.mod_eq_of_lt (by omega), Nat.mod_eq_of_lt (by omega)⟩

theorem Inv.writeCodec {s : State} (h : Inv s) {k m : Nat} {E : Matrix} (hkm : legalConfig k m = true)
    (hE : buildEm k m = .ok E) : Inv (s.writeCodec k m E) where
  core :=
    { matrices := h.core.matrices
      encoding := buildEm_wf hkm hE
      codec := by
        obtain ⟨hk, hm⟩ := toNat_ofNat_of_legal hkm
        refine ⟨fun _ => ?_, fun hvalid => absurd hvalid (by simp)⟩
        simp only [State.writeCodec_cfg, State.writeCodec_em, hk, hm]
        exact ⟨hkm, hE⟩
      code7 := h.core.code7
      halted := h.core.halted }
  mem := h.mem

theorem Inv.setMatch {s : State} (h : Inv s) (b : Bool) : Inv (s.setMatch b) where
  core := h.core.of_status rfl rfl rfl h.core.code7 h.core.halted
  mem := h.mem

theorem Inv.setMem {s : State} (h : Inv s) {mem : Memory} (hmem : mem.wf) : Inv (s.setMem mem) where
  core := h.core
  mem := hmem

/-- No port write reaches a matrix register, `em`, `STATUS` or `CFG` (R281). -/
theorem CoreInv.portWrite {c : CoreState} (h : CoreInv c) (loc : PortLoc) (v : Word) : CoreInv (portWrite loc v c) := by
  cases loc <;> exact h.of_status rfl rfl rfl h.code7 h.halted

theorem coreInv_reset : CoreInv CoreState.reset where
  matrices := fun i => .inl (by simp [CoreState.reset])
  encoding := .inl ⟨rfl, rfl, rfl⟩
  codec := ⟨fun h => absurd h (by simp [CoreState.reset]), fun _ => ⟨rfl, rfl, rfl⟩⟩
  code7 := by simp [CoreState.reset]
  halted := by simp [CoreState.reset]

/-- Settles O53: R340's values are legal ones, and memory with nothing listed is canonical. -/
theorem resetMeetsInvariant : Obligations.ResetMeetsInvariant :=
  ⟨⟨coreInv_reset, Memory.wf_nil⟩, rfl⟩

/-! ### Commands -/

/-- What is written has a legal shape by the effect's own facts, and `STATUS` is legal by the end of the command. -/
theorem CommandEffect.keeps_inv {i : Instr} {s t : State} (h : CommandEffect i s (.next t)) (hwf : wellFormed i = true)
    (hs : Inv s) (hrun : Running s) : Inv t := by
  cases h with
  | raises c => exact hs.raised hrun _ c
  | writesNothing hi => exact hs.setErr_zero hrun
  | writesX hi d v => exact (hs.writeX d v).setErr_zero hrun
  | writesM hi d A hA => exact (hs.writeM d (hA hwf hs.mat_wf)).setErr_zero hrun
  | writesCodec hi k m E hkm hE => exact (hs.writeCodec hkm hE).setErr_zero hrun
  | writesMatch hi b => exact (hs.setMatch b).setErr_zero hrun
  | writesMem hi mem hmem => exact (hs.setMem (hmem hs.mem)).setErr_zero hrun

/-- A command word reaches the core only while it runs (R283, R303), and a legal word is a well-formed command. -/
theorem acceptCommand_keeps_inv {w : Word} {s t : State} (hs : Inv s) (h : acceptCommand w s = .next t) : Inv t := by
  unfold acceptCommand at h
  split at h
  · cases h
    exact hs
  next hfatal =>
    have hrun : Running s := Bool.eq_false_iff.mpr hfatal
    cases hw : decode w with
    | error e =>
      rw [hw] at h
      rw [raise_eq_next.mp h]
      exact hs.raised hrun _ _
    | ok i =>
      rw [hw] at h
      exact (exec_next h).keeps_inv (decode_wellFormed hw) hs hrun

/-! ### Transactions -/

theorem hostWrite_keeps_inv {off : Nat} {v : Word} {s t : State} (hs : Inv s) (h : hostWrite off v s = .next t) :
    Inv t := by
  unfold hostWrite at h
  split at h
  · cases h
  · exact acceptCommand_keeps_inv hs h
  · cases h
    exact ⟨hs.core.portWrite _ v, hs.mem⟩

theorem hostRead_keeps_inv {off : Nat} {s t : State} (hs : Inv s) (h : hostRead off s = .next t) : Inv t := by
  unfold hostRead at h
  split at h
  · cases h
  · cases h
    exact ⟨hs.core, hs.mem⟩

theorem runTxn_keeps_inv {x : HostTxn} {s t : State} (hs : Inv s) (h : runTxn x s = .next t) : Inv t := by
  cases x with
  | write off v => exact hostWrite_keeps_inv hs h
  | read off => exact hostRead_keeps_inv hs h
  | oddAccess off bytes => cases h
  | memWrite addr b =>
    simp only [runTxn] at h
    split at h
    next haddr =>
      cases h
      exact hs.setMem (Memory.write_wf hs.mem haddr b)
    · cases h
  | memRead addr =>
    simp only [runTxn] at h
    split at h
    · cases h
      exact ⟨hs.core, hs.mem⟩
    · cases h
  | reset =>
    cases h
    exact ⟨coreInv_reset, hs.mem⟩

/-- Settles O54: each operation on the state keeps the invariant, so each command's effect on a running core does, so each
transaction does. -/
theorem stepKeepsInvariant : Obligations.StepKeepsInvariant := by
  unfold Obligations.StepKeepsInvariant
  intro s t hs h
  unfold step at h
  split at h
  · cases h
    exact hs
  · refine runTxn_keeps_inv ?_ h
    exact ⟨hs.core, hs.mem⟩

end Sys2Proof.Machine
end

section
/-! SUPPORT and the proofs of O45 and O48. The register map (R24), and accesses outside it (R36). -/

namespace Sys2Proof.Machine

theorem portLoc_eq_none {off : Nat} (h : off % 4 ≠ 0 ∨ 0x2000 ≤ off) : portLoc off = none := if_pos h

/-- Each branch of the map answers a location with the offset it was given. -/
theorem portOffset_of_portLoc {off : Nat} {loc : PortLoc} (hloc : loc ≠ .reserved) :
    portLoc off = some loc → portOffset loc = some off := by
  unfold portLoc Config.windowSize
  repeat' refine iteInduction (motive := (· = some loc → _)) (fun _ => ?_) (fun _ => ?_)
  all_goals rintro ⟨⟩
  all_goals simp only [portOffset, Fin.ofNat, Option.some.injEq, ne_eq, not_true_eq_false, reduceCtorEq] at hloc ⊢
  all_goals omega

/-- The offset of each location passes the tests before its own branch of the map and is in that branch. -/
theorem portLoc_of_portOffset {off : Nat} {loc : PortLoc} (h : portOffset loc = some off) : portLoc off = some loc := by
  cases loc with
  | cmd | status | strat | n | off | cnt | maddr | cfg => cases h; rfl
  | mdim i | x i | sel i | shBase i | shLen i | shFlag i =>
    cases h
    simp (disch := omega) only [portLoc, Config.windowSize, ↓if_pos, ↓if_neg]
    simp only [Option.some.injEq, PortLoc.mdim.injEq, PortLoc.x.injEq, PortLoc.sel.injEq,
      PortLoc.shBase.injEq, PortLoc.shLen.injEq, PortLoc.shFlag.injEq, Fin.ext_iff, Fin.ofNat]
    omega
  | reserved => cases h

theorem portLoc_eq_reserved {off : Nat} : portLoc off = some .reserved ↔ off % 4 = 0 ∧
    (0x0034 ≤ off ∧ off < 0x0040 ∨ 0x0080 ≤ off ∧ off < 0x0400 ∨ 0x0800 ≤ off ∧ off < 0x1000 ∨
      0x1000 ≤ off ∧ off < 0x2000 ∧ off % 16 = 12) := by
  unfold portLoc Config.windowSize
  repeat' refine iteInduction (motive := (· = some PortLoc.reserved ↔ _)) (fun _ => ?_) (fun _ => ?_)
  all_goals simp only [Option.some.injEq, reduceCtorEq, false_iff, true_iff]
  all_goals omega

/-- Settles O45: the map and the table are each other's inverse on named locations. -/
theorem portMapIsTheTable : Obligations.PortMapIsTheTable :=
  ⟨fun _ _ hloc => ⟨portOffset_of_portLoc hloc, portLoc_of_portOffset⟩, fun _ => portLoc_eq_reserved⟩

/-- Settles O48: the map has no location there, and only a location can be accessed. -/
theorem unspecifiedPortAccessIsRefused : Obligations.UnspecifiedPortAccessIsRefused := by
  unfold Obligations.UnspecifiedPortAccessIsRefused
  intro s off bytes v rest
  refine ⟨fun h => ?_, rfl⟩
  have hnone := portLoc_eq_none h
  exact ⟨by simp only [step, runTxn, hostWrite, hnone], by simp only [step, runTxn, hostRead, hnone]⟩

end Sys2Proof.Machine
end

section
/-! SUPPORT and the proof of O49. The host's own accesses to shard memory (R280). -/

namespace Sys2Proof.Machine

theorem runTxn_memWrite {addr : Nat} (h : addr < Config.memSize) (b : Byte) (s : State) :
    runTxn (.memWrite addr b) s = .next (s.setMem (s.mem.write addr b)) := if_pos h

theorem runTxn_memRead {addr : Nat} (h : addr < Config.memSize) (s : State) :
    runTxn (.memRead addr) s = .next (s.reply ((s.mem.read addr).setWidth 32)) := if_pos h

theorem step_of_pending {s : State} {x : HostTxn} {rest : List HostTxn} (h : s.host.pending = x :: rest) :
    step s = runTxn x { s with host.pending := rest } := by
  unfold step
  rw [h]

/-- Settles O49: the load runs on the memory that the store left, where a read returns the byte last written. -/
theorem hostStoreThenLoad : Obligations.HostStoreThenLoad := by
  unfold Obligations.HostStoreThenLoad
  intro s a b rest hm ha hpending
  refine ⟨_, _, (step_of_pending hpending).trans (runTxn_memWrite ha b _),
    (step_of_pending rfl).trans (runTxn_memRead ha _), rfl, rfl, ?_, fun a' hne => ?_⟩
  · simp [Memory.read_write_same hm]
  · exact Memory.read_write_of_ne s.mem b hne

end Sys2Proof.Machine
end

section
/-! SUPPORT and the proof of O40. Each unit's loop nest (R242 to R256): its order, its iterations' accesses, their number. -/

namespace Sys2Proof.Machine

/-- R242's table: units `2 * order` and `2 * order + 1` run the same loop order. -/
theorem unitOrder_eq (u : Fin 12) :
    (u.val = 0 ∨ u.val = 1 → unitOrder u = .bio) ∧ (u.val = 2 ∨ u.val = 3 → unitOrder u = .boi) ∧
    (u.val = 4 ∨ u.val = 5 → unitOrder u = .ibo) ∧ (u.val = 6 ∨ u.val = 7 → unitOrder u = .iob) ∧
    (u.val = 8 ∨ u.val = 9 → unitOrder u = .obi) ∧ (u.val = 10 ∨ u.val = 11 → unitOrder u = .oib) := by
  revert u
  decide

/-! ### Which accesses -/

@[simp] theorem stepAccesses_rmw_zero (c : CodeCall) (o p : Nat) :
    stepAccesses c (.rmw 0 o p) = [.read (inAddr c 0 p), .write (outAddr c o p)] := rfl

@[simp] theorem stepAccesses_rmw_succ (c : CodeCall) (i o p : Nat) :
    stepAccesses c (.rmw (i + 1) o p) =
      [.read (inAddr c (i + 1) p), .read (outAddr c o p), .write (outAddr c o p)] := rfl

@[simp] theorem stepAccesses_acc (c : CodeCall) (o p : Nat) :
    stepAccesses c (.acc o p) =
      ((List.range c.ins.length).map fun i => .read (inAddr c i p)) ++ [.write (outAddr c o p)] := rfl

/-- Only the nests of the read-modify-write orders hold `step_rmw` (R245, R249, R251, R255). -/
theorem readsOutputs_of_rmw_mem {u : Fin 12} {nin nout cnt i o p : Nat}
    (h : .rmw i o p ∈ schedule (unitOrder u) nin nout cnt) : readsOutputs u = true := by
  unfold readsOutputs
  cases horder : unitOrder u with
  | boi | obi => simp [horder, schedule] at h
  | bio | ibo | iob | oib => rfl

theorem mem_stepAccesses_acc {c : CodeCall} {o p : Nat} {x : Access} (h : x ∈ stepAccesses c (.acc o p)) :
    (∃ i < c.ins.length, x = .read (inAddr c i p)) ∨ x = .write (outAddr c o p) := by
  simpa [eq_comm] using h

theorem mem_stepAccesses_rmw {c : CodeCall} {i o p : Nat} {x : Access} (h : x ∈ stepAccesses c (.rmw i o p)) :
    x = .read (inAddr c i p) ∨ x = .write (outAddr c o p) ∨ x = .read (outAddr c o p) := by
  cases i with
  | zero => exact (by simpa using h : _ ∨ _).imp_right .inl
  | succ i => exact (by simpa using h : _ ∨ _ ∨ _).imp_right Or.symm

/-- A unit accesses bytes of its windows only, and reads output bytes only in a read-modify-write order (R64). -/
theorem mem_runAccesses {u : Fin 12} {c : CodeCall} {x : Access} (h : x ∈ runAccesses u c) :
    (∃ i < c.ins.length, ∃ p < c.cnt, x = .read (inAddr c i p)) ∨
    (∃ o < c.outs.length, ∃ p < c.cnt, x = .write (outAddr c o p)) ∨
    (readsOutputs u = true ∧ ∃ o < c.outs.length, ∃ p < c.cnt, x = .read (outAddr c o p)) := by
  obtain ⟨st, hst, hx⟩ := List.mem_flatMap.mp h
  obtain ⟨o, p, ho, hp, rfl | ⟨i, hi, rfl⟩⟩ := schedule_range hst
  · obtain ⟨i, hi, rfl⟩ | rfl := mem_stepAccesses_acc hx
    · exact .inl ⟨i, hi, p, hp, rfl⟩
    · exact .inr (.inl ⟨o, ho, p, hp, rfl⟩)
  · obtain rfl | rfl | rfl := mem_stepAccesses_rmw hx
    · exact .inl ⟨i, hi, p, hp, rfl⟩
    · exact .inr (.inl ⟨o, ho, p, hp, rfl⟩)
    · exact .inr (.inr ⟨readsOutputs_of_rmw_mem hst, o, ho, p, hp, rfl⟩)

/-! ### How many accesses -/

theorem length_stepAccesses_rmw (c : CodeCall) (i o p : Nat) :
    (stepAccesses c (.rmw i o p)).length = if i = 0 then 2 else 3 := by
  cases i <;> rfl

theorem length_stepAccesses_acc (c : CodeCall) (o p : Nat) :
    (stepAccesses c (.acc o p)).length = c.ins.length + 1 := by simp

/-- A loop whose blocks may differ in length. -/
theorem length_flatMap_range_eq_sum {α : Type} (n : Nat) (f : Nat → List α) :
    ((List.range n).flatMap f).length = ∑ i ∈ Finset.range n, (f i).length :=
  List.length_flatMap

/-- Over all inputs, `step_rmw` reads each input, reads the output back for all but input 0, and writes each time (R243). -/
theorem sum_rmw_accesses {nin : Nat} (h : 1 ≤ nin) :
    ∑ i ∈ Finset.range nin, (if i = 0 then 2 else 3) = nin + (nin - 1) + nin := by
  obtain ⟨n, rfl⟩ := Nat.exists_eq_add_of_le' h
  rw [Finset.sum_range_succ']
  simp
  omega

theorem length_runAccesses {u : Fin 12} {c : CodeCall} (h : 1 ≤ c.ins.length) :
    (runAccesses u c).length =
      if readsOutputs u then
        c.cnt * c.ins.length * c.outs.length + c.cnt * (c.ins.length - 1) * c.outs.length +
          c.cnt * c.ins.length * c.outs.length
      else c.cnt * c.outs.length * c.ins.length + c.cnt * c.outs.length := by
  unfold runAccesses readsOutputs
  cases unitOrder u with
  | boi | obi =>
    simp only [schedule, List.flatMap_assoc, List.flatMap_map, length_flatMap_range_eq_sum, length_stepAccesses_acc,
      Finset.sum_const, Finset.card_range, smul_eq_mul, Bool.false_eq_true, if_false]
    ring
  | bio | ibo | iob | oib =>
    simp only [schedule, List.flatMap_assoc, List.flatMap_map, length_flatMap_range_eq_sum, length_stepAccesses_rmw,
      Finset.sum_const, Finset.card_range, smul_eq_mul, ← Finset.mul_sum, sum_rmw_accesses h, if_true]
    ring

/-- Settles O40: where an iteration stands by `loopNest_two` and `loopNest_three`, the rest by the lemmas above. -/
theorem unitAccessesAreThoseOfItsLoopNest : Obligations.UnitAccessesAreThoseOfItsLoopNest := by
  unfold Obligations.UnitAccessesAreThoseOfItsLoopNest
  rintro u c _ _ _ rfl rfl rfl
  obtain ⟨hbio, hboi, hibo, hiob, hobi, hoib⟩ := unitOrder_eq u
  refine ⟨fun hu => hbio hu ▸ loopNest_three _, fun hu => hboi hu ▸ loopNest_two _, fun hu => hibo hu ▸ loopNest_three _,
    fun hu => hiob hu ▸ loopNest_three _, fun hu => hobi hu ▸ loopNest_two _, fun hu => hoib hu ▸ loopNest_three _,
    stepAccesses_rmw_zero c, stepAccesses_rmw_succ c, fun o p => ⟨length_stepAccesses_acc c o p, ?_, fun i hi => ?_⟩,
    rfl, fun _ => rfl, fun x => mem_runAccesses, length_runAccesses⟩
  · simp
  · simp [List.getElem?_append_left, hi]

end Sys2Proof.Machine
end

section
/-! SUPPORT and the proof of O11. The windows of a call as ranges of memory (R64), and the bytes that a command leaves alone. -/

namespace Sys2Proof.Machine

/-! ### Footprints -/

theorem inFootprint_iff {rs : List Range} {a : Nat} :
    inFootprint rs a = true ↔ ∃ r ∈ rs, r.base ≤ a ∧ a < r.base + r.size := by
  simp [inFootprint, inRange]

/-- The windows of the buffers at the given bases, in a call. -/
def CodeCall.windows (c : CodeCall) (bases : List Nat) : List Range :=
  bases.map fun b => { base := b + c.off, size := c.cnt }

/-- Byte `p` of buffer `i`'s window. -/
theorem CodeCall.inFootprint_windows {c : CodeCall} {bases : List Nat} {i p : Nat} (hi : i < bases.length) (hp : p < c.cnt) :
    inFootprint (c.windows bases) (bases.getD i 0 + c.off + p) = true := by
  rw [List.getD_eq_getElem _ _ hi]
  exact inFootprint_iff.mpr ⟨_, List.mem_map_of_mem (List.getElem_mem hi), Nat.le_add_right _ _, Nat.add_lt_add_left hp _⟩

/-- The windows of shards, as a call with their bases has them. -/
theorem CodeCall.windows_shards {c : CodeCall} {s : State} (hoff : c.off = s.offset) (hcnt : c.cnt = s.count) (is : List Nat) :
    c.windows (is.map s.shBase) = is.map (shardWindow s) := by
  simp [CodeCall.windows, shardWindow, hoff, hcnt, Function.comp_def]

/-! ### What each writing command leaves alone -/

/-- A run changes no byte outside its output windows (R241). -/
theorem runCode_read_of_not_inFootprint (u : Fin 12) {c : CodeCall} (mem : Memory) {a : Nat}
    (h : inFootprint (c.windows c.outs) a = false) : (runCode u c mem).read a = mem.read a := by
  refine runCode_read_outside u c mem fun o p ho hp heq => ?_
  rw [← heq, outAddr, CodeCall.inFootprint_windows ho hp] at h
  cases h

/-- A run on shards changes no byte outside the windows of its output shards. -/
theorem runCode_read_of_not_inShards (u : Fin 12) {c : CodeCall} {s : State} {is : List Nat} (mem : Memory) {a : Nat}
    (houts : c.outs = is.map s.shBase) (hoff : c.off = s.offset) (hcnt : c.cnt = s.count)
    (h : inFootprint (is.map (shardWindow s)) a = false) : (runCode u c mem).read a = mem.read a :=
  runCode_read_of_not_inFootprint u mem (by rw [houts, CodeCall.windows_shards hoff hcnt, h])

theorem decodeMemory_read_of_not_inShards {s : State} (D : Matrix) {a : Nat}
    (h : inFootprint ((missingData s ++ missingParity s).map (shardWindow s)) a = false) :
    (decodeMemory s D).read a = s.mem.read a := by
  rw [List.map_append, inFootprint, List.any_append, Bool.or_eq_false_iff] at h
  obtain ⟨hdata, hparity⟩ := h
  have hfirst : Memory.read (if (missingData s).isEmpty then s.mem else runCode s.core.strat (dataCall s D) s.mem) a =
      s.mem.read a := by
    split
    · rfl
    · exact runCode_read_of_not_inShards _ _ rfl rfl rfl hdata
  unfold decodeMemory
  dsimp only
  split
  · exact hfirst
  · rw [runCode_read_of_not_inShards _ _ rfl rfl rfl hparity, hfirst]

/-- The command, when it has a next state, leaves the byte at `a` as it was in `s`. -/
def Keeps (a : Nat) (s : State) (o : Host.Outcome State Fault Refusal) : Prop :=
  ∀ t, o = .next t → t.mem.read a = s.mem.read a

theorem Keeps.raise {a : Nat} (b : Bool) (c : Condition) (s : State) : Keeps a s (raise b c s) := by
  intro t h
  rw [raise_eq_next.mp h, raised_mem]

theorem Keeps.complete {a : Nat} {s u : State} (hu : u.mem.read a = s.mem.read a) : Keeps a s (complete u) := by
  intro t h
  rw [complete_eq_next.mp h, State.setErr_mem, hu]

/-- A check that may raise, before a command that leaves the byte alone. -/
theorem Keeps.guarded {a : Nat} {b : Bool} {c : Condition} {s : State} {o : Host.Outcome State Fault Refusal} {p : Prop}
    [Decidable p] (h : Keeps a s o) : Keeps a s (if p then Machine.raise b c s else o) := by
  split
  · exact .raise b c s
  · exact h

theorem execMstore_keeps (ms : MatSrc) (s : State) {a : Nat} (ha : inFootprint (writeFootprint (.mstore ms) s) a = false) :
    Keeps a s (execMstore ms s) := by
  refine .guarded (.guarded (.complete (Memory.read_writeBytes_outside _ _ _ ?_)))
  have hout : ¬(s.imageBase ≤ a ∧ a < s.imageBase + (s.mat ms).rows * (s.mat ms).cols) := by
    simpa [writeFootprint, inFootprint, inRange] using ha
  rw [matImage_length]
  omega

theorem execEncode_keeps (s : State) {a : Nat} (ha : inFootprint (writeFootprint .encode s) a = false) :
    Keeps a s (execEncode s) := by
  unfold execEncode
  cases codecCheck s with
  | some c => exact .raise _ c s
  | none => exact .complete (runCode_read_of_not_inShards _ _ rfl rfl rfl ha)

theorem execDecode_keeps (s : State) {a : Nat} (ha : inFootprint (writeFootprint .decode s) a = false) :
    Keeps a s (execDecode s) := by
  unfold execDecode
  cases codecCheck s with
  | some c => exact .raise _ c s
  | none =>
    refine .guarded ?_
    split
    · exact .complete rfl
    · cases decodeMatrix s with
      | error c => exact .raise _ c s
      | ok D => exact .complete (decodeMemory_read_of_not_inShards D ha)

theorem execCode_keeps (ms : MatSrc) (nin nout : Nat) (s : State) {a : Nat}
    (ha : inFootprint (writeFootprint (.code ms nin nout) s) a = false) : Keeps a s (execCode ms nin nout s) := by
  unfold execCode
  cases loopCheck ms nin nout s with
  | some c => exact .raise _ c s
  | none => exact .complete (runCode_read_of_not_inFootprint _ _ ha)

/-- Settles O11: four commands write memory at all (O10), each inside its footprint. -/
theorem noWriteOutsideFootprint : Obligations.NoWriteOutsideFootprint := by
  unfold Obligations.NoWriteOutsideFootprint
  intro i s t h a ha
  by_cases hi : instrOpcode i ∈ memoryOpcodes
  · cases i with
    | mstore ms => exact execMstore_keeps ms s ha t h
    | encode => exact execEncode_keeps s ha t h
    | decode => exact execDecode_keeps s ha t h
    | code ms nin nout => exact execCode_keeps ms nin nout s ha t h
    | _ => simp [instrOpcode] at hi
  · obtain ⟨-, -, -, -, -, hmem⟩ := stateWrittenOnlyByItsCommands i s t h
    rw [hmem hi]

end Sys2Proof.Machine
end

section
/-! SUPPORT. A command reads no byte outside its footprint (R64): on memories that agree there it leaves the same core and
memories that agree there. -/

namespace Sys2Proof.Machine

/-! ### Memories that agree on a footprint -/

/-- Canonical memories with the same bytes in the ranges. -/
structure Memory.AgreeOn (rs : List Range) (m m' : Memory) : Prop where
  wf_left : m.wf
  wf_right : m'.wf
  read_eq : ∀ a, inFootprint rs a = true → m.read a = m'.read a

theorem Memory.AgreeOn.refl {rs : List Range} {m : Memory} (hm : m.wf) : Memory.AgreeOn rs m m := ⟨hm, hm, fun _ _ => rfl⟩

theorem Memory.AgreeOn.write {rs : List Range} {m m' : Memory} (h : Memory.AgreeOn rs m m') {x : Nat}
    (hx : x < Config.memSize) {v v' : Byte} (hv : v = v') : Memory.AgreeOn rs (m.write x v) (m'.write x v') where
  wf_left := Memory.write_wf h.wf_left hx v
  wf_right := Memory.write_wf h.wf_right hx v'
  read_eq a ha := by
    by_cases hax : a = x
    · rw [hax, Memory.read_write_same h.wf_left, Memory.read_write_same h.wf_right, hv]
    · rw [Memory.read_write_of_ne _ _ hax, Memory.read_write_of_ne _ _ hax, h.read_eq a ha]

theorem Memory.AgreeOn.writeBytes {rs : List Range} {m m' : Memory} (h : Memory.AgreeOn rs m m') {addr : Nat} {bytes : List Byte}
    (hfits : addr + bytes.length ≤ Config.memSize) :
    Memory.AgreeOn rs (m.writeBytes addr bytes) (m'.writeBytes addr bytes) := by
  induction bytes generalizing m m' addr with
  | nil => exact h
  | cons b rest ih =>
    rw [List.length_cons] at hfits
    exact ih (h.write (by omega) rfl) (by omega)

theorem inFootprint_of_subset {rs rs' : List Range} (hsub : rs ⊆ rs') {a : Nat} (h : inFootprint rs a = true) :
    inFootprint rs' a = true := by
  obtain ⟨r, hr, hin⟩ := inFootprint_iff.mp h
  exact inFootprint_iff.mpr ⟨r, hsub hr, hin⟩

/-! ### Calls of the datapath -/

/-- The call's windows are among the ranges. -/
structure CodeCall.Within (c : CodeCall) (rs : List Range) : Prop where
  ins : c.windows c.ins ⊆ rs
  outs : c.windows c.outs ⊆ rs

theorem xorSum_congr {n : Nat} {f g : Nat → Byte} (h : ∀ i < n, f i = g i) : xorSum n f = xorSum n g :=
  List.foldl_ext _ _ _ fun _ i hi => by rw [h i (List.mem_range.mp hi)]

section
variable {rs : List Range} {c : CodeCall} {m m' : Memory}

theorem CodeCall.Within.read_in (hc : c.Within rs) (h : Memory.AgreeOn rs m m') {i p : Nat} (hi : i < c.ins.length)
    (hp : p < c.cnt) : m.read (inAddr c i p) = m'.read (inAddr c i p) :=
  h.read_eq _ (inFootprint_of_subset hc.ins (CodeCall.inFootprint_windows hi hp))

theorem CodeCall.Within.read_out (hc : c.Within rs) (h : Memory.AgreeOn rs m m') {o p : Nat} (ho : o < c.outs.length)
    (hp : p < c.cnt) : m.read (outAddr c o p) = m'.read (outAddr c o p) :=
  h.read_eq _ (inFootprint_of_subset hc.outs (CodeCall.inFootprint_windows ho hp))

theorem CodeCall.OutputsInMemory.outAddr_lt (hmem : c.OutputsInMemory) {o p : Nat} (ho : o < c.outs.length) (hp : p < c.cnt) :
    outAddr c o p < Config.memSize := by
  have hb := hmem (c.outs.getD o 0) (by rw [List.getD_eq_getElem _ _ ho]; exact List.getElem_mem ho)
  unfold outAddr
  omega

/-- An iteration reads an input byte, or all of them, and its own output byte (R243, R244). -/
theorem runStep_agree (hc : c.Within rs) (hmem : c.OutputsInMemory) (mul : Byte → Byte → Byte) {order : LoopOrder} {st : LoopStep}
    (hst : st ∈ schedule order c.ins.length c.outs.length c.cnt) (h : Memory.AgreeOn rs m m') :
    Memory.AgreeOn rs (runStep mul c m st) (runStep mul c m' st) := by
  obtain ⟨o, p, ho, hp, rfl | ⟨i, hi, rfl⟩⟩ := schedule_range hst
  · exact h.write (hmem.outAddr_lt ho hp) (xorSum_congr fun i hi => by rw [hc.read_in h hi hp])
  · simp only [runStep, stepRmw, hc.read_in h hi hp, hc.read_out h ho hp]
    split <;> exact h.write (hmem.outAddr_lt ho hp) rfl

theorem runCode_agree (hc : c.Within rs) (hmem : c.OutputsInMemory) (u : Fin 12) (h : Memory.AgreeOn rs m m') :
    Memory.AgreeOn rs (runCode u c m) (runCode u c m') :=
  List.foldl_rel h fun _ hst _ _ => runStep_agree hc hmem _ hst

theorem runCheck_agree (hc : c.Within rs) (u : Fin 12) (h : Memory.AgreeOn rs m m') : runCheck u c m = runCheck u c m' := by
  have hcoded : ∀ o p, p < c.cnt → coded c m o p = coded c m' o p := fun o p hp =>
    xorSum_congr fun i hi => by rw [hc.read_in h hi hp]
  rw [Bool.eq_iff_iff]
  simp only [runCheck, List.all_eq_true, List.mem_range]
  exact forall₄_congr fun o ho p hp => by rw [hcoded o p hp, hc.read_out h ho hp]

end

/-! ### Commands -/

/-- All that a command may touch: both columns of R64's table. -/
def footprint (i : Instr) (s : State) : List Range := readFootprint i s ++ writeFootprint i s

/-- Two runs of a command end in states that differ in shard memory at most, and there not inside the ranges. -/
def SameEnd (rs : List Range) (o o' : Host.Outcome State Fault Refusal) : Prop :=
  ∃ t mem', o = .next t ∧ o' = .next (t.setMem mem') ∧ Memory.AgreeOn rs t.mem mem'

section
variable {rs : List Range} {s : State} {mem' : Memory}

theorem SameEnd.complete (h : Memory.AgreeOn rs s.mem mem') : SameEnd rs (complete s) (complete (s.setMem mem')) :=
  ⟨s.setErr 0, mem', rfl, rfl, h⟩

theorem SameEnd.raise (h : Memory.AgreeOn rs s.mem mem') (b : Bool) (c : Condition) :
    SameEnd rs (raise b c s) (raise b c (s.setMem mem')) := by
  refine ⟨raised b c s, mem', rfl, ?_, by rwa [raised_mem]⟩
  rw [raise_eq_next, raised_eq, raised_eq]
  rfl

/-- A test of the core alone. -/
theorem SameEnd.ite {p : Prop} [Decidable p] {o₁ o₂ o₁' o₂' : Host.Outcome State Fault Refusal} (h₁ : p → SameEnd rs o₁ o₁')
    (h₂ : ¬p → SameEnd rs o₂ o₂') : SameEnd rs (if p then o₁ else o₂) (if p then o₁' else o₂') := by
  split
  next hp => exact h₁ hp
  next hp => exact h₂ hp

/-- A check of the core alone that may raise, before the rest of the command. -/
theorem SameEnd.guarded (h : Memory.AgreeOn rs s.mem mem') {b : Bool} {c : Condition} {p : Prop} [Decidable p]
    {o o' : Host.Outcome State Fault Refusal} (ho : ¬p → SameEnd rs o o') :
    SameEnd rs (if p then Machine.raise b c s else o) (if p then Machine.raise b c (s.setMem mem') else o') :=
  .ite (fun _ => .raise h b c) ho

theorem finishField_sameEnd (h : Memory.AgreeOn rs s.mem mem') (d : Fin 16) (r : Except Condition Byte) :
    SameEnd rs (finishField d r s) (finishField d r (s.setMem mem')) := by
  cases r with
  | ok v => exact .complete (s := s.writeX d v) h
  | error c => exact .raise h _ c

theorem finishMatrix_sameEnd (h : Memory.AgreeOn rs s.mem mem') (d : Fin 4) (r : Except Condition Matrix) :
    SameEnd rs (finishMatrix d r s) (finishMatrix d r (s.setMem mem')) := by
  cases r with
  | ok A => exact .complete (s := s.writeM d A) h
  | error c => exact .raise h _ c

theorem matOf_congr {rows cols : Nat} {f g : Nat → Nat → Byte} (h : ∀ r < rows, ∀ c < cols, f r c = g r c) :
    matOf rows cols f = matOf rows cols g := by
  unfold matOf
  congr 1
  exact List.map_congr_left fun r hr => List.map_congr_left fun c hc => h r (List.mem_range.mp hr) c (List.mem_range.mp hc)

/-- The image that MLOAD reads lies in its footprint. -/
theorem loadedMatrix_agree {d : Fin 4} {rows cols : Nat} (h : Memory.AgreeOn (footprint (.mload d rows cols) s) s.mem mem') :
    loadedMatrix s rows cols = loadedMatrix (s.setMem mem') rows cols := by
  refine matOf_congr fun r hr c hc => h.read_eq _ (inFootprint_iff.mpr ⟨_, List.mem_singleton_self _, ?_⟩)
  have hrow : r * cols + cols ≤ rows * cols := by
    rw [← Nat.succ_mul]
    exact Nat.mul_le_mul_right cols hr
  dsimp only
  omega

theorem execMload_sameEnd {d : Fin 4} {rows cols : Nat} (h : Memory.AgreeOn (footprint (.mload d rows cols) s) s.mem mem') :
    SameEnd (footprint (.mload d rows cols) s) (execMload d rows cols s) (execMload d rows cols (s.setMem mem')) := by
  refine .guarded h fun _ => ?_
  rw [← loadedMatrix_agree h]
  exact .complete (s := s.writeM d _) h

theorem execMstore_sameEnd {ms : MatSrc} (h : Memory.AgreeOn rs s.mem mem') :
    SameEnd rs (execMstore ms s) (execMstore ms (s.setMem mem')) :=
  .guarded h fun _ => .guarded h fun hfits => .complete (s := s.setMem _)
    (h.writeBytes (by rw [matImage_length]; exact Nat.le_of_not_gt hfits))

theorem execCreate_sameEnd (h : Memory.AgreeOn rs s.mem mem') (k m : Nat) :
    SameEnd rs (execCreate k m s) (execCreate k m (s.setMem mem')) := by
  refine .guarded h fun _ => ?_
  cases buildEm k m with
  | error c => exact .raise h _ c
  | ok E => exact .complete (s := s.writeCodec k m E) h

/-! ### The codec and loop commands: their calls lie within their footprints -/

@[simp] theorem codecCheck_setMem (s : State) (mem : Memory) : codecCheck (s.setMem mem) = codecCheck s := rfl
@[simp] theorem loopCheck_setMem (ms : MatSrc) (nin nout : Nat) (s : State) (mem : Memory) :
    loopCheck ms nin nout (s.setMem mem) = loopCheck ms nin nout s := rfl
@[simp] theorem decodeMatrix_setMem (s : State) (mem : Memory) : decodeMatrix (s.setMem mem) = decodeMatrix s := rfl

theorem CodeCall.Within.of_shards {c : CodeCall} {is os : List Nat} (hins : c.ins = is.map s.shBase)
    (houts : c.outs = os.map s.shBase) (hoff : c.off = s.offset) (hcnt : c.cnt = s.count)
    (hi : ∀ i ∈ is, shardWindow s i ∈ rs) (ho : ∀ o ∈ os, shardWindow s o ∈ rs) : c.Within rs where
  ins := by
    rw [hins, CodeCall.windows_shards hoff hcnt]
    exact List.forall_mem_map.mpr hi
  outs := by
    rw [houts, CodeCall.windows_shards hoff hcnt]
    exact List.forall_mem_map.mpr ho

theorem parityCall_within_encode (s : State) : (parityCall s).Within (footprint .encode s) :=
  .of_shards rfl rfl rfl rfl
    (fun _ hi => List.mem_append_left _ (List.mem_append_left _ (List.mem_map_of_mem hi)))
    (fun _ ho => List.mem_append_right _ (List.mem_map_of_mem ho))

theorem parityCall_within_verify (s : State) : (parityCall s).Within (footprint .verify s) :=
  .of_shards rfl rfl rfl rfl
    (fun _ hi => List.mem_append_left _ (List.mem_map_of_mem
      (List.mem_range.mpr (Nat.lt_add_right _ (List.mem_range.mp hi)))))
    (fun _ ho => List.mem_append_left _ (List.mem_map_of_mem (List.mem_of_mem_drop ho)))

theorem dataCall_within_decode (s : State) (D : Matrix) : (dataCall s D).Within (footprint .decode s) :=
  .of_shards rfl rfl rfl rfl
    (fun _ hi => List.mem_append_left _ (List.mem_append_left _ (List.mem_map_of_mem (List.mem_append_left _ hi))))
    (fun _ ho => List.mem_append_right _ (List.mem_map_of_mem (List.mem_append_left _ ho)))

theorem missingParityCall_within_decode (s : State) : (missingParityCall s).Within (footprint .decode s) :=
  .of_shards rfl rfl rfl rfl
    (fun _ hi => List.mem_append_left _ (List.mem_append_left _ (List.mem_map_of_mem (List.mem_append_right _ hi))))
    (fun _ ho => List.mem_append_right _ (List.mem_map_of_mem (List.mem_append_right _ ho)))

theorem loopCall_within_code (ms : MatSrc) (nin nout : Nat) (s : State) :
    (loopCall ms nin nout s).Within (footprint (.code ms nin nout) s) where
  ins := List.subset_append_of_subset_left _ (List.subset_append_left _ _)
  outs := List.subset_append_right _ _

theorem loopCall_within_check (ms : MatSrc) (nin nout : Nat) (s : State) :
    (loopCall ms nin nout s).Within (footprint (.check ms nin nout) s) where
  ins := List.subset_append_of_subset_left _ (List.subset_append_left _ _)
  outs := List.subset_append_of_subset_left _ (List.subset_append_right _ _)

theorem execEncode_sameEnd (h : Memory.AgreeOn (footprint .encode s) s.mem mem') :
    SameEnd (footprint .encode s) (execEncode s) (execEncode (s.setMem mem')) := by
  unfold execEncode
  rw [codecCheck_setMem]
  cases hcheck : codecCheck s with
  | some c => exact .raise h _ c
  | none =>
    exact .complete (s := s.setMem _) (runCode_agree (parityCall_within_encode s) (parityCall_inMemory hcheck) _ h)

theorem execVerify_sameEnd (h : Memory.AgreeOn (footprint .verify s) s.mem mem') :
    SameEnd (footprint .verify s) (execVerify s) (execVerify (s.setMem mem')) := by
  unfold execVerify
  rw [codecCheck_setMem]
  cases codecCheck s with
  | some c => exact .raise h _ c
  | none =>
    have hmatch := runCheck_agree (parityCall_within_verify s) s.core.strat h
    exact hmatch ▸ .complete (s := s.setMatch _) h

theorem decodeMemory_agree (hcheck : codecCheck s = none) (D : Matrix) (h : Memory.AgreeOn (footprint .decode s) s.mem mem') :
    Memory.AgreeOn (footprint .decode s) (decodeMemory s D) (decodeMemory (s.setMem mem') D) := by
  have hdata : Memory.AgreeOn (footprint .decode s)
      (if (missingData s).isEmpty then s.mem else runCode s.core.strat (dataCall s D) s.mem)
      (if (missingData s).isEmpty then mem' else runCode s.core.strat (dataCall s D) mem') := by
    split
    · exact h
    · exact runCode_agree (dataCall_within_decode s D) (dataCall_inMemory hcheck D) _ h
  show Memory.AgreeOn _ (if (missingParity s).isEmpty then _ else runCode s.core.strat (missingParityCall s) _)
    (if (missingParity s).isEmpty then _ else runCode s.core.strat (missingParityCall s) _)
  split
  · exact hdata
  · exact runCode_agree (missingParityCall_within_decode s) (missingParityCall_inMemory hcheck) _ hdata

theorem execDecode_sameEnd (h : Memory.AgreeOn (footprint .decode s) s.mem mem') :
    SameEnd (footprint .decode s) (execDecode s) (execDecode (s.setMem mem')) := by
  unfold execDecode
  rw [codecCheck_setMem, decodeMatrix_setMem]
  cases hcheck : codecCheck s with
  | some c => exact .raise h _ c
  | none =>
    refine .guarded h fun _ => .ite (fun _ => .complete h) fun _ => ?_
    cases decodeMatrix s with
    | error c => exact .raise h _ c
    | ok D => exact .complete (s := s.setMem _) (decodeMemory_agree hcheck D h)

theorem execCode_sameEnd {ms : MatSrc} {nin nout : Nat} (h : Memory.AgreeOn (footprint (.code ms nin nout) s) s.mem mem') :
    SameEnd (footprint (.code ms nin nout) s) (execCode ms nin nout s) (execCode ms nin nout (s.setMem mem')) := by
  unfold execCode
  rw [loopCheck_setMem]
  cases hcheck : loopCheck ms nin nout s with
  | some c => exact .raise h _ c
  | none =>
    exact .complete (s := s.setMem _) (runCode_agree (loopCall_within_code ms nin nout s) (loopCall_inMemory hcheck) _ h)

theorem execCheck_sameEnd {ms : MatSrc} {nin nout : Nat} (h : Memory.AgreeOn (footprint (.check ms nin nout) s) s.mem mem') :
    SameEnd (footprint (.check ms nin nout) s) (execCheck ms nin nout s) (execCheck ms nin nout (s.setMem mem')) := by
  unfold execCheck
  rw [loopCheck_setMem]
  cases loopCheck ms nin nout s with
  | some c => exact .raise h _ c
  | none =>
    have hmatch := runCheck_agree (loopCall_within_check ms nin nout s) s.core.strat h
    exact hmatch ▸ .complete (s := s.setMatch _) h

end

/-- Every command: its result depends on the core and on the bytes of its footprint alone. -/
theorem exec_sameEnd (i : Instr) {s : State} {mem' : Memory} (h : Memory.AgreeOn (footprint i s) s.mem mem') :
    SameEnd (footprint i s) (exec i s) (exec i (s.setMem mem')) := by
  cases i with
  | nop => exact .complete h
  | gfadd d a b => exact finishField_sameEnd h d (.ok _)
  | gfmul d a b => exact finishField_sameEnd h d (.ok _)
  | gfmulx d a b => exact finishField_sameEnd h d (.ok _)
  | gfdiv d a b => exact finishField_sameEnd h d _
  | gfinv d a => exact finishField_sameEnd h d _
  | gfexp d a => exact finishField_sameEnd h d (.ok _)
  | mload d rows cols => exact execMload_sameEnd h
  | mstore ms => exact execMstore_sameEnd h
  | mmul d ma mb => exact .guarded h fun _ => .guarded h fun _ => finishMatrix_sameEnd h d _
  | msub d ms n => exact .guarded h fun _ => finishMatrix_sameEnd h d _
  | minv d ms => exact .guarded h fun _ => finishMatrix_sameEnd h d _
  | create k m => exact execCreate_sameEnd h k m
  | encode => exact execEncode_sameEnd h
  | verify => exact execVerify_sameEnd h
  | decode => exact execDecode_sameEnd h
  | code ms nin nout => exact execCode_sameEnd h
  | check ms nin nout => exact execCheck_sameEnd h

end Sys2Proof.Machine
end

section
/-! SUPPORT and the proof of O56. Two commands with disjoint footprints (R68), on one memory and on two cores over it. -/

namespace Sys2Proof.Machine

@[simp] theorem writeFootprint_setMem (i : Instr) (s : State) (mem : Memory) :
    writeFootprint i (s.setMem mem) = writeFootprint i s := by
  cases i <;> rfl

theorem footprintsDisjoint.symm {i j : Instr} {s t : State} (h : footprintsDisjoint i s j t) : footprintsDisjoint j t i s :=
  fun a => (h a).symm

/-- What one command writes, the other does not touch. -/
theorem footprintsDisjoint.not_written {i j : Instr} {s t : State} (h : footprintsDisjoint i s j t) {a : Nat}
    (ha : inFootprint (footprint j t) a = true) : inFootprint (writeFootprint i s) a = false := by
  by_contra hw
  obtain ⟨hread, hwrite⟩ := (h a).1 (Bool.not_eq_false _ ▸ hw)
  rw [footprint, inFootprint, List.any_append, Bool.or_eq_true] at ha
  rcases ha with ha | ha
  · exact absurd (hread.symm.trans ha) (by simp)
  · exact absurd (hwrite.symm.trans ha) (by simp)

theorem inFootprint_footprint_of_write {i : Instr} {s : State} {a : Nat} (h : inFootprint (writeFootprint i s) a = true) :
    inFootprint (footprint i s) a = true :=
  inFootprint_of_subset (List.subset_append_right _ _) h

theorem exec_mem_wf {i : Instr} {s t : State} (hm : s.mem.wf) (h : exec i s = .next t) : t.mem.wf := by
  obtain ⟨t', mem', ht', -, hagree⟩ := exec_sameEnd i (Memory.AgreeOn.refl hm)
  cases h.symm.trans ht'
  exact hagree.wf_left

section
variable {i j : Instr} {s u t v : State}

/-- After a disjoint command `i`, command `j` has the same end but for memory, which `j`'s footprint does not show. -/
theorem exec_after_disjoint (hdisj : footprintsDisjoint i s j u) (hmem : u.mem = s.mem) (hm : s.mem.wf)
    (hi : exec i s = .next t) (hj : exec j u = .next v) :
    ∃ mem', exec j (u.setMem t.mem) = .next (v.setMem mem') ∧ Memory.AgreeOn (footprint j u) v.mem mem' := by
  have hagree : Memory.AgreeOn (footprint j u) u.mem t.mem :=
    ⟨hmem ▸ hm, exec_mem_wf hm hi, fun a ha => by
      rw [hmem, noWriteOutsideFootprint i s t hi a (hdisj.not_written ha)]⟩
  obtain ⟨v', mem', hv', hmem', hend⟩ := exec_sameEnd j hagree
  cases hj.symm.trans hv'
  exact ⟨mem', hmem', hend⟩

/-- Disjoint commands on one memory, in either order: each ends as it does alone but for memory, and memory is the same. -/
theorem exec_commute (hdisj : footprintsDisjoint i s j u) (hmem : u.mem = s.mem) (hm : s.mem.wf)
    (hi : exec i s = .next t) (hj : exec j u = .next v) :
    ∃ mem', exec j (u.setMem t.mem) = .next (v.setMem mem') ∧ exec i (s.setMem v.mem) = .next (t.setMem mem') := by
  obtain ⟨m₁, hm₁, hagree₁⟩ := exec_after_disjoint hdisj hmem hm hi hj
  obtain ⟨m₂, hm₂, hagree₂⟩ := exec_after_disjoint hdisj.symm hmem.symm (hmem ▸ hm) hj hi
  have hframe₁ : ∀ a, inFootprint (writeFootprint j u) a = false → m₁.read a = t.mem.read a := fun a ha =>
    noWriteOutsideFootprint j _ _ hm₁ a (by rwa [writeFootprint_setMem])
  have hframe₂ : ∀ a, inFootprint (writeFootprint i s) a = false → m₂.read a = v.mem.read a := fun a ha =>
    noWriteOutsideFootprint i _ _ hm₂ a (by rwa [writeFootprint_setMem])
  have heq : m₁ = m₂ := Memory.ext_of_read hagree₁.wf_right hagree₂.wf_right fun a => by
    cases hwi : inFootprint (writeFootprint i s) a with
    | true =>
      have hti := inFootprint_footprint_of_write hwi
      rw [hframe₁ a (hdisj.symm.not_written hti), hagree₂.read_eq a hti]
    | false =>
      cases hwj : inFootprint (writeFootprint j u) a with
      | true => rw [hframe₂ a hwi, hagree₁.read_eq a (inFootprint_footprint_of_write hwj)]
      | false =>
        rw [hframe₁ a hwj, hframe₂ a hwi, noWriteOutsideFootprint i s t hi a hwi,
          noWriteOutsideFootprint j u v hj a hwj, hmem]
  exact ⟨m₁, hm₁, heq ▸ hm₂⟩

end

/-! ### Two cores over one memory -/

/-- The system when core `i` has gone to `t`. -/
def System.update (sys : System) (i : Nat) (t : State) : System :=
  { cores := sys.cores.set i t.core, mem := t.mem, replies := t.host.replies }

/-- A legal command word at a running core (R283). -/
theorem systemCommand_eq_next {sys : System} {i : Nat} {c : CoreState} {w : Word} {a : Instr} {t : State}
    (hc : sys.cores[i]? = some c) (hrun : c.status.fatal = false) (hw : decode w = .ok a)
    (h : exec a (instanceState sys c) = .next t) : systemCommand i w sys = .next (sys.update i t) := by
  have htxn : runTxn (.write 0 w) (instanceState sys c) = .next t := by
    show (if c.status.fatal then _ else _) = _
    simp only [hrun, hw, h, Bool.false_eq_true, if_false]
  simp only [systemCommand, systemTxn, hc, htxn, System.update]

theorem host_of_exec {sys : System} {c : CoreState} {a : Instr} {t : State}
    (h : exec a (instanceState sys c) = .next t) : t.host = { pending := [], replies := sys.replies } := by
  obtain ⟨-, -, -, -, -, -, -, hhost⟩ := noCommandWritesControlRegisters a _ t h
  exact hhost

/-- Another core sees the memory that a command left and nothing else of it (R308). -/
theorem instanceState_update {sys : System} {i : Nat} {c d : CoreState} {a : Instr} {t : State}
    (h : exec a (instanceState sys c) = .next t) :
    instanceState (sys.update i t) d = (instanceState sys d).setMem t.mem := by
  simp only [instanceState, System.update, host_of_exec h, State.setMem]

/-- Settles O56: each command ends as it would alone, and memory is the same in either order. -/
theorem disjointCommandsCommute : Obligations.DisjointCommandsCommute := by
  unfold Obligations.DisjointCommandsCommute
  intro sys i j c d w v a b hij hc hd hm hcrun hdrun hw hv hdisj
  obtain ⟨t, ht, -⟩ := commandCompletesOrRaises a (instanceState sys c)
  obtain ⟨u, hu, -⟩ := commandCompletesOrRaises b (instanceState sys d)
  obtain ⟨mem', htu, hut⟩ := exec_commute hdisj rfl hm ht hu
  have hd' : (sys.update i t).cores[j]? = some d := by simpa [System.update, hij] using hd
  have hc' : (sys.update j u).cores[i]? = some c := by simpa [System.update, hij.symm] using hc
  have hsame : (sys.update j u).update i (t.setMem mem') = (sys.update i t).update j (u.setMem mem') := by
    simp only [System.update, State.setMem, host_of_exec ht, host_of_exec hu, List.set_comm _ _ hij]
  refine ⟨sys.update i t, (sys.update i t).update j (u.setMem mem'), sys.update j u,
    systemCommand_eq_next hc hcrun hw ht, ?_, systemCommand_eq_next hd hdrun hv hu, ?_⟩
  · exact systemCommand_eq_next hd' hdrun hv (by rw [instanceState_update ht, htu])
  · rw [← hsame]
    exact systemCommand_eq_next hc' hcrun hw (by rw [instanceState_update hu, hut])

end Sys2Proof.Machine
end

section
/-! SUPPORT and the proofs of O1, O2 and O4. The decoder read as a relation: a word is a command's word exactly when its
fields hold the command's opcode and operands (R93, R94, R98). -/

namespace Sys2Proof

/-! ### What each step and each form of the decoder answers -/

theorem bind_eq_ok {α β : Type} {x : Except DecodeError α} {f : α → Except DecodeError β} {b : β} :
    (x >>= f) = .ok b ↔ ∃ a, x = .ok a ∧ f a = .ok b :=
  ⟨ok_of_bind_eq_ok, by rintro ⟨a, rfl, h⟩; exact h⟩

theorem pure_eq_ok {α : Type} {a b : α} : (pure a : Except DecodeError α) = .ok b ↔ a = b := ⟨Except.ok.inj, congrArg _⟩

/-- Unused fields first: a command is answered when they are zero and the rest of its decoder answers it (R96 (b)). -/
theorem needZero_bind_eq_ok {fs : List Nat} {α : Type} {r : Except DecodeError α} {a : α} :
    (needZero fs >>= fun _ => r) = .ok a ↔ (∀ f ∈ fs, f = 0) ∧ r = .ok a := by
  simp only [bind_eq_ok, needZero_eq_ok, exists_const]

theorem destOf_bind_eq_ok {f : Nat} {g : Fin 4 → Except DecodeError Instr} {i : Instr} :
    (destOf f >>= g) = .ok i ↔ ∃ d : Fin 4, f = d.val ∧ g d = .ok i := by
  simp only [bind_eq_ok, destOf_eq_ok]

theorem sourceOf_bind_eq_ok {f : Nat} {g : MatSrc → Except DecodeError Instr} {i : Instr} :
    (sourceOf f >>= g) = .ok i ↔ ∃ ms, f = sourceField ms ∧ g ms = .ok i := by
  simp only [bind_eq_ok, sourceOf_eq_ok]

/-- A 4-bit field names one scalar register (R96). -/
theorem scalarOf_eq_iff {f : Nat} {d : Fin 16} (h : f < 16) : scalarOf f = d ↔ f = d.val := by
  simp only [scalarOf, Fin.ext_iff, Fin.val_ofNat, Nat.mod_eq_of_lt h]

theorem fieldX_lt (w : Word) : fieldX w < 16 := Nat.mod_lt _ (by decide)
theorem fieldY_lt (w : Word) : fieldY w < 16 := Nat.mod_lt _ (by decide)
theorem fieldP_lt (w : Word) : fieldP w < 256 := Nat.mod_lt _ (by decide)
theorem fieldQ_lt (w : Word) : fieldQ w < 256 := Nat.mod_lt _ (by decide)
theorem fieldQLo_lt (w : Word) : fieldQLo w < 16 := Nat.mod_lt _ (by decide)

/-- The two halves of `q` (R91). -/
theorem fieldQ_eq (w : Word) : fieldQ w = 16 * fieldQHi w + fieldQLo w := by
  unfold fieldQ fieldQHi fieldQLo
  omega

/-- What the fields of `w` hold when `w` is the word of a command, beside the opcode (R93's operand columns). -/
def OperandFields (w : Word) : Instr → Prop
  | .nop | .encode | .verify | .decode => fieldX w = 0 ∧ fieldY w = 0 ∧ fieldP w = 0 ∧ fieldQ w = 0
  | .gfadd d a b | .gfmul d a b | .gfmulx d a b | .gfdiv d a b =>
      fieldX w = d ∧ fieldY w = a ∧ fieldP w = 0 ∧ fieldQHi w = 0 ∧ fieldQLo w = b
  | .gfinv d a | .gfexp d a => fieldX w = d ∧ fieldY w = a ∧ fieldP w = 0 ∧ fieldQ w = 0
  | .mload d rows cols => fieldX w = d ∧ fieldY w = 0 ∧ fieldP w + 1 = rows ∧ fieldQ w + 1 = cols
  | .mstore ms => fieldX w = 0 ∧ fieldY w = sourceField ms ∧ fieldP w = 0 ∧ fieldQ w = 0
  | .mmul d ma mb =>
      fieldX w = d ∧ fieldY w = sourceField ma ∧ fieldP w = 0 ∧ fieldQHi w = 0 ∧ fieldQLo w = sourceField mb
  | .msub d ms n => fieldX w = d ∧ fieldY w = sourceField ms ∧ fieldP w = 0 ∧ fieldQ w + 1 = n
  | .minv d ms => fieldX w = d ∧ fieldY w = sourceField ms ∧ fieldP w = 0 ∧ fieldQ w = 0
  | .create k m => fieldK12 w = k ∧ fieldM12 w = m
  | .code ms nin nout | .check ms nin nout =>
      fieldX w = 0 ∧ fieldY w = sourceField ms ∧ fieldP w + 1 = nin ∧ fieldQ w + 1 = nout

theorem decode0_eq_ok {i j : Instr} {w : Word} :
    decode0 i w = .ok j ↔ (fieldX w = 0 ∧ fieldY w = 0 ∧ fieldP w = 0 ∧ fieldQ w = 0) ∧ i = j := by
  simp only [decode0, needZero_bind_eq_ok, pure_eq_ok, List.forall_mem_cons]
  simp

theorem decode2_eq_ok {mk : Fin 16 → Fin 16 → Instr} {j : Instr} {w : Word} :
    decode2 mk w = .ok j ↔ ∃ d a : Fin 16, (fieldX w = d ∧ fieldY w = a ∧ fieldP w = 0 ∧ fieldQ w = 0) ∧ mk d a = j := by
  simp only [decode2, needZero_bind_eq_ok, pure_eq_ok, ← scalarOf_eq_iff (fieldX_lt w), ← scalarOf_eq_iff (fieldY_lt w)]
  simp [and_assoc]

theorem decode3_eq_ok {mk : Fin 16 → Fin 16 → Fin 16 → Instr} {j : Instr} {w : Word} :
    decode3 mk w = .ok j ↔ ∃ d a b : Fin 16,
      (fieldX w = d ∧ fieldY w = a ∧ fieldP w = 0 ∧ fieldQHi w = 0 ∧ fieldQLo w = b) ∧ mk d a b = j := by
  simp only [decode3, needZero_bind_eq_ok, pure_eq_ok, ← scalarOf_eq_iff (fieldX_lt w), ← scalarOf_eq_iff (fieldY_lt w),
    ← scalarOf_eq_iff (fieldQLo_lt w)]
  simp [and_assoc]

theorem decodeLoop_eq_ok {mk : MatSrc → Nat → Nat → Instr} {j : Instr} {w : Word} :
    decodeLoop mk w = .ok j ↔
      ∃ ms, fieldX w = 0 ∧ fieldY w = sourceField ms ∧ mk ms (fieldP w + 1) (fieldQ w + 1) = j := by
  simp only [decodeLoop, needZero_bind_eq_ok, sourceOf_bind_eq_ok, pure_eq_ok]
  simp

/-! ### The decoder as a relation -/

/-- The word of a decoded command has its opcode byte, and its fields hold its operands. -/
theorem fields_of_decode_ok {w : Word} {i : Instr} (h : decode w = .ok i) :
    opcodeByte (instrOpcode i) = fieldOp w ∧ OperandFields w i := by
  unfold decode at h
  cases hop : opcodeOf (fieldOp w) with
  | none => simp [hop] at h
  | some c =>
    rw [hop] at h
    replace hop := opcodeOf_eq_some.mp hop
    cases c with
    | nop | encode | verify | decode =>
      obtain ⟨hf, rfl⟩ := decode0_eq_ok.mp h
      exact ⟨hop, hf⟩
    | gfadd | gfmul | gfmulx | gfdiv =>
      obtain ⟨d, a, b, hf, rfl⟩ := decode3_eq_ok.mp h
      exact ⟨hop, hf⟩
    | gfinv | gfexp =>
      obtain ⟨d, a, hf, rfl⟩ := decode2_eq_ok.mp h
      exact ⟨hop, hf⟩
    | code | check =>
      obtain ⟨ms, hx, hy, rfl⟩ := decodeLoop_eq_ok.mp h
      exact ⟨hop, hx, hy, rfl, rfl⟩
    | create =>
      cases h
      exact ⟨hop, rfl, rfl⟩
    | mload =>
      obtain ⟨hz, h⟩ := needZero_bind_eq_ok.mp h
      obtain ⟨d, hx, h⟩ := destOf_bind_eq_ok.mp h
      cases h
      exact ⟨hop, hx, by simpa using hz, rfl, rfl⟩
    | mstore =>
      obtain ⟨hz, h⟩ := needZero_bind_eq_ok.mp h
      obtain ⟨ms, hy, h⟩ := sourceOf_bind_eq_ok.mp h
      cases h
      exact ⟨hop, by simpa [OperandFields, hy] using hz⟩
    | mmul =>
      obtain ⟨hz, h⟩ := needZero_bind_eq_ok.mp h
      obtain ⟨d, hx, h⟩ := destOf_bind_eq_ok.mp h
      obtain ⟨ma, hy, h⟩ := sourceOf_bind_eq_ok.mp h
      obtain ⟨mb, hq, h⟩ := sourceOf_bind_eq_ok.mp h
      cases h
      exact ⟨hop, by simpa [OperandFields, hx, hy, hq] using hz⟩
    | msub =>
      obtain ⟨hz, h⟩ := needZero_bind_eq_ok.mp h
      obtain ⟨d, hx, h⟩ := destOf_bind_eq_ok.mp h
      obtain ⟨ms, hy, h⟩ := sourceOf_bind_eq_ok.mp h
      cases h
      exact ⟨hop, hx, hy, by simpa using hz, rfl⟩
    | minv =>
      obtain ⟨hz, h⟩ := needZero_bind_eq_ok.mp h
      obtain ⟨d, hx, h⟩ := destOf_bind_eq_ok.mp h
      obtain ⟨ms, hy, h⟩ := sourceOf_bind_eq_ok.mp h
      cases h
      exact ⟨hop, hx, hy, by simpa using hz⟩

/-- A word with a command's opcode byte and operands decodes to that command. -/
theorem decode_ok_of_fields {w : Word} {i : Instr} (hop : opcodeByte (instrOpcode i) = fieldOp w) (hf : OperandFields w i) :
    decode w = .ok i := by
  rw [decode, opcodeOf_eq_some.mpr hop]
  cases i with
  | nop | encode | verify | decode => exact decode0_eq_ok.mpr ⟨hf, rfl⟩
  | gfadd d a b | gfmul d a b | gfmulx d a b | gfdiv d a b => exact decode3_eq_ok.mpr ⟨d, a, b, hf, rfl⟩
  | gfinv d a | gfexp d a => exact decode2_eq_ok.mpr ⟨d, a, hf, rfl⟩
  | code ms nin nout | check ms nin nout =>
    obtain ⟨hx, hy, rfl, rfl⟩ := hf
    exact decodeLoop_eq_ok.mpr ⟨ms, hx, hy, rfl⟩
  | create k m =>
    obtain ⟨rfl, rfl⟩ := hf
    rfl
  | mload _ _ _ | mstore _ | mmul _ _ _ | msub _ _ _ | minv _ _ =>
    simp only [instrOpcode, needZero_bind_eq_ok, destOf_bind_eq_ok, sourceOf_bind_eq_ok, pure_eq_ok]
    simp only [OperandFields] at hf
    simp [hf]

/-! ### Words as numbers -/

/-- A word is spelled by its fields in format R (R91). -/
theorem toNat_eq_formatR_iff {w : Word} {op x y p q : Nat} (hx : x < 16) (hy : y < 16) (hp : p < 256) (hq : q < 256) :
    w.toNat = formatR op x y p q ↔ op = fieldOp w ∧ fieldX w = x ∧ fieldY w = y ∧ fieldP w = p ∧ fieldQ w = q := by
  unfold formatR fieldOp fieldX fieldY fieldP fieldQ
  omega

/-- A word is spelled by its fields in format K (R92). -/
theorem toNat_eq_formatK_iff {w : Word} {op k m : Nat} (hk : k < 4096) (hm : m < 4096) :
    w.toNat = formatK op k m ↔ op = fieldOp w ∧ fieldK12 w = k ∧ fieldM12 w = m := by
  unfold formatK fieldOp fieldK12 fieldM12
  omega

theorem toNat_eq_encodeNat_iff {w : Word} {i : Instr} (hwf : wellFormed i = true) :
    w.toNat = encodeNat i ↔ opcodeByte (instrOpcode i) = fieldOp w ∧ OperandFields w i := by
  have hq := fieldQ_eq w
  have hlo := fieldQLo_lt w
  cases i with
  | nop | encode | verify | decode =>
    simp only [encodeNat, instrOpcode, opcodeByte, OperandFields, fieldOp, fieldX, fieldY, fieldP, fieldQ]
    omega
  | gfadd d a b | gfmul d a b | gfmulx d a b | gfdiv d a b =>
    rw [encodeNat, toNat_eq_formatR_iff d.isLt a.isLt (by decide) (by omega)]
    simp only [instrOpcode, opcodeByte, OperandFields]
    omega
  | gfinv d a | gfexp d a => exact toNat_eq_formatR_iff d.isLt a.isLt (by decide) (by decide)
  | mload d rows cols =>
    simp only [wellFormed, countOk, Bool.and_eq_true, decide_eq_true_eq] at hwf
    rw [encodeNat, toNat_eq_formatR_iff (by omega) (by decide) (by omega) (by omega)]
    simp only [instrOpcode, opcodeByte, OperandFields]
    omega
  | mstore ms | minv d ms =>
    have hms := Laws.sourceField_le ms
    exact toNat_eq_formatR_iff (by omega) (by omega) (by decide) (by decide)
  | mmul d ma mb =>
    have hma := Laws.sourceField_le ma
    have hmb := Laws.sourceField_le mb
    rw [encodeNat, toNat_eq_formatR_iff (by omega) (by omega) (by decide) (by omega)]
    simp only [instrOpcode, opcodeByte, OperandFields]
    omega
  | msub d ms n | code ms nin nout | check ms nin nout =>
    have hms := Laws.sourceField_le ms
    simp only [wellFormed, countOk, Bool.and_eq_true, decide_eq_true_eq] at hwf
    rw [encodeNat, toNat_eq_formatR_iff (by omega) (by omega) (by omega) (by omega)]
    simp only [instrOpcode, opcodeByte, OperandFields]
    omega
  | create k m =>
    simp only [wellFormed, count12Ok, Bool.and_eq_true, decide_eq_true_eq] at hwf
    exact toNat_eq_formatK_iff (by omega) (by omega)

/-- A word decodes to a command exactly when it is the word that R98 writes for it. -/
theorem decode_eq_ok_iff {w : Word} {i : Instr} : decode w = .ok i ↔ wellFormed i = true ∧ w.toNat = encodeNat i := by
  constructor
  · intro h
    have hwf := decode_wellFormed h
    exact ⟨hwf, (toNat_eq_encodeNat_iff hwf).mpr (fields_of_decode_ok h)⟩
  · rintro ⟨hwf, h⟩
    obtain ⟨hop, hf⟩ := (toNat_eq_encodeNat_iff hwf).mp h
    exact decode_ok_of_fields hop hf

/-! ### The obligations -/

/-- The lemmas of Sys2Proof/Laws/PerInstr.lean, for every command at once. -/
theorem encodeOpcode_statement : ∀ i : Instr, Laws.EncodeOpcode.Statement i
  | .nop => Laws.EncodeOpcode.nop
  | .gfadd d a b => Laws.EncodeOpcode.gfadd d a b
  | .gfmul d a b => Laws.EncodeOpcode.gfmul d a b
  | .gfmulx d a b => Laws.EncodeOpcode.gfmulx d a b
  | .gfdiv d a b => Laws.EncodeOpcode.gfdiv d a b
  | .gfinv d a => Laws.EncodeOpcode.gfinv d a
  | .gfexp d a => Laws.EncodeOpcode.gfexp d a
  | .mload d rows cols => Laws.EncodeOpcode.mload d rows cols
  | .mstore ms => Laws.EncodeOpcode.mstore ms
  | .mmul d ma mb => Laws.EncodeOpcode.mmul d ma mb
  | .msub d ms n => Laws.EncodeOpcode.msub d ms n
  | .minv d ms => Laws.EncodeOpcode.minv d ms
  | .create k m => Laws.EncodeOpcode.create k m
  | .encode => Laws.EncodeOpcode.encode
  | .verify => Laws.EncodeOpcode.verify
  | .decode => Laws.EncodeOpcode.decode
  | .code ms nin nout => Laws.EncodeOpcode.code ms nin nout
  | .check ms nin nout => Laws.EncodeOpcode.check ms nin nout

/-- Settles O1: the word of a well-formed command spells the command's number. -/
theorem decodeOfEncodeIsTheCommand : Obligations.DecodeOfEncodeIsTheCommand := by
  unfold Obligations.DecodeOfEncodeIsTheCommand
  intro i hwf
  obtain ⟨hi, -⟩ := encodeOpcode_statement i hwf
  exact decode_eq_ok_iff.mpr ⟨hwf, hi⟩

/-- Settles O2: a legal word spells its command's number, and the number is that of one word. -/
theorem encodeOfDecodeIsTheWord : Obligations.EncodeOfDecodeIsTheWord := by
  unfold Obligations.EncodeOfDecodeIsTheWord
  intro w i h
  obtain ⟨hwf, hn⟩ := decode_eq_ok_iff.mp h
  obtain ⟨hi, -⟩ := encodeOpcode_statement i hwf
  exact ⟨BitVec.eq_of_toNat_eq (hi.trans hn.symm), hwf⟩

/-- Settles O4: each word is the number that R98 writes for its command. -/
theorem sampleWordsDecode : Obligations.SampleWordsDecode := by
  unfold Obligations.SampleWordsDecode
  simp only [decode_eq_ok_iff]
  decide

end Sys2Proof
end

section
/-! SUPPORT and the proof of O3. The match and mask table (R95), read row by row as bounds on the fields of a word. -/

namespace Sys2Proof

/-! ### Words and their fields -/

theorem fieldOp_lt (w : Word) : fieldOp w < 256 := Nat.div_lt_of_lt_mul w.isLt

@[simp] theorem fieldOp_and (w v : Word) : fieldOp (w &&& v) = fieldOp w &&& fieldOp v := by
  simp only [fieldOp, BitVec.toNat_and, Nat.and_div_two_pow]

@[simp] theorem fieldX_and (w v : Word) : fieldX (w &&& v) = fieldX w &&& fieldX v := by
  simp only [fieldX, BitVec.toNat_and, Nat.and_div_two_pow, Nat.and_mod_two_pow (n := 4)]

@[simp] theorem fieldY_and (w v : Word) : fieldY (w &&& v) = fieldY w &&& fieldY v := by
  simp only [fieldY, BitVec.toNat_and, Nat.and_div_two_pow, Nat.and_mod_two_pow (n := 4)]

@[simp] theorem fieldP_and (w v : Word) : fieldP (w &&& v) = fieldP w &&& fieldP v := by
  simp only [fieldP, BitVec.toNat_and, Nat.and_div_two_pow, Nat.and_mod_two_pow (n := 8)]

@[simp] theorem fieldQ_and (w v : Word) : fieldQ (w &&& v) = fieldQ w &&& fieldQ v := by
  simp only [fieldQ, BitVec.toNat_and, Nat.and_mod_two_pow (n := 8)]

/-- The format R word of five fields (R91). -/
def wordR (op x y p q : Nat) : Word := BitVec.ofNat 32 (formatR op x y p q)

theorem eq_wordR_iff {w : Word} {op x y p q : Nat} (hop : op < 256) (hx : x < 16) (hy : y < 16) (hp : p < 256) (hq : q < 256) :
    w = wordR op x y p q ↔ op = fieldOp w ∧ fieldX w = x ∧ fieldY w = y ∧ fieldP w = p ∧ fieldQ w = q := by
  have hlt : formatR op x y p q < 2 ^ 32 := by
    unfold formatR
    omega
  rw [wordR, ← BitVec.toNat_inj, BitVec.toNat_ofNat, Nat.mod_eq_of_lt hlt, toNat_eq_formatR_iff hx hy hp hq]

/-- A field masked with all but its low `k` bits keeps its high part. -/
theorem and_highMask {n k f : Nat} (hf : f < 2 ^ n) (hk : k ≤ n) : f &&& (2 ^ n - 2 ^ k) = f / 2 ^ k * 2 ^ k := by
  have hmask : 2 ^ n - 2 ^ k = (2 ^ (n - k) - 1) * 2 ^ k := by
    rw [Nat.sub_mul, ← Nat.pow_add, Nat.sub_add_cancel hk, Nat.one_mul]
  have hdiv : (f &&& (2 ^ n - 2 ^ k)) / 2 ^ k = f / 2 ^ k := by
    have hlt : f / 2 ^ k < 2 ^ (n - k) := Nat.div_lt_of_lt_mul (by rwa [← Nat.pow_add, Nat.add_sub_cancel' hk])
    rw [Nat.and_div_two_pow, hmask, Nat.mul_div_cancel _ (Nat.two_pow_pos k), Nat.and_two_pow_sub_one_eq_mod,
      Nat.mod_eq_of_lt hlt]
  have hmod : (f &&& (2 ^ n - 2 ^ k)) % 2 ^ k = 0 := by
    rw [Nat.and_mod_two_pow, hmask, Nat.mul_mod_left, Nat.and_zero]
  rw [← hdiv, Nat.div_mul_cancel (Nat.dvd_of_mod_eq_zero hmod)]

theorem and_highMask_eq_zero {n k f : Nat} (hf : f < 2 ^ n) (hk : k ≤ n) : f &&& (2 ^ n - 2 ^ k) = 0 ↔ f < 2 ^ k := by
  rw [and_highMask hf hk, Nat.mul_eq_zero, or_iff_left (Nat.two_pow_pos k).ne', Nat.div_eq_zero_iff_lt (Nat.two_pow_pos k)]

theorem highMask_lt (n k : Nat) : 2 ^ n - 2 ^ k < 2 ^ n := Nat.sub_lt (Nat.two_pow_pos n) (Nat.two_pow_pos k)

/-! ### The rows -/

/-- What a command's word may hold: how many low bits of each field are free, the rest of the field being 0, and which
fields name a matrix source. -/
structure FieldBounds where
  x : Nat
  y : Nat
  p : Nat
  q : Nat
  ySource : Bool := false
  qSource : Bool := false

/-- The bounds of each command's fields (R93). -/
def fieldBounds : Opcode → FieldBounds
  | .nop | .encode | .verify | .decode => { x := 0, y := 0, p := 0, q := 0 }
  | .gfadd | .gfmul | .gfmulx | .gfdiv => { x := 4, y := 4, p := 0, q := 4 }
  | .gfinv | .gfexp => { x := 4, y := 4, p := 0, q := 0 }
  | .mload => { x := 2, y := 0, p := 8, q := 8 }
  | .mstore => { x := 0, y := 3, p := 0, q := 0, ySource := true }
  | .mmul => { x := 2, y := 3, p := 0, q := 3, ySource := true, qSource := true }
  | .msub => { x := 2, y := 3, p := 0, q := 8, ySource := true }
  | .minv => { x := 2, y := 3, p := 0, q := 0, ySource := true }
  | .create => { x := 4, y := 4, p := 8, q := 8 }
  | .code | .check => { x := 0, y := 3, p := 8, q := 8, ySource := true }

/-- The row that the bounds make. -/
def rowOf (c : Opcode) : OpcodeRow :=
  let b := fieldBounds c
  { opcode := c
    pattern := wordR (opcodeByte c) 0 0 0 0
    mask := wordR 255 (2 ^ 4 - 2 ^ b.x) (2 ^ 4 - 2 ^ b.y) (2 ^ 8 - 2 ^ b.p) (2 ^ 8 - 2 ^ b.q)
    yAtMost4 := b.ySource
    qAtMost4 := b.qSource }

/-- R95's table is the table of the bounds. -/
theorem opcodeTable_eq : opcodeTable = opcodes.map rowOf := by decide

/-- The fields of a word are within the bounds. -/
def FieldBounds.Contains (b : FieldBounds) (w : Word) : Prop :=
  fieldX w < 2 ^ b.x ∧ fieldY w < 2 ^ b.y ∧ fieldP w < 2 ^ b.p ∧ fieldQ w < 2 ^ b.q ∧
    (b.ySource = true → fieldY w ≤ 4) ∧ (b.qSource = true → fieldQ w ≤ 4)

theorem fieldBounds_le (c : Opcode) :
    (fieldBounds c).x ≤ 4 ∧ (fieldBounds c).y ≤ 4 ∧ (fieldBounds c).p ≤ 8 ∧ (fieldBounds c).q ≤ 8 := by
  cases c <;> decide

theorem and_mask_eq_pattern_iff {w : Word} {c : Opcode} : w &&& (rowOf c).mask = (rowOf c).pattern ↔
    opcodeByte c = fieldOp w ∧ fieldX w < 2 ^ (fieldBounds c).x ∧ fieldY w < 2 ^ (fieldBounds c).y ∧
      fieldP w < 2 ^ (fieldBounds c).p ∧ fieldQ w < 2 ^ (fieldBounds c).q := by
  obtain ⟨hx, hy, hp, hq⟩ := fieldBounds_le c
  have hop : opcodeByte c < 256 := by cases c <;> decide
  obtain ⟨mop, mx, my, mp, mq⟩ := (eq_wordR_iff (by decide) (highMask_lt 4 _) (highMask_lt 4 _) (highMask_lt 8 _)
    (highMask_lt 8 _)).mp (show (rowOf c).mask = _ from rfl)
  have hwop : fieldOp w &&& 255 = fieldOp w :=
    (Nat.and_two_pow_sub_one_eq_mod _ 8).trans (Nat.mod_eq_of_lt (fieldOp_lt w))
  rw [show (rowOf c).pattern = wordR (opcodeByte c) 0 0 0 0 from rfl,
    eq_wordR_iff hop (by decide) (by decide) (by decide) (by decide), fieldOp_and, fieldX_and, fieldY_and, fieldP_and, fieldQ_and,
    ← mop, mx, my, mp, mq, hwop, and_highMask_eq_zero (fieldX_lt w) hx, and_highMask_eq_zero (fieldY_lt w) hy,
    and_highMask_eq_zero (fieldP_lt w) hp, and_highMask_eq_zero (fieldQ_lt w) hq]

/-- A row accepts the words that have its opcode and fields within its bounds. -/
theorem rowAccepts_rowOf {w : Word} {c : Opcode} :
    rowAccepts (rowOf c) w = true ↔ opcodeByte c = fieldOp w ∧ (fieldBounds c).Contains w := by
  simp only [rowAccepts, Bool.and_eq_true, Bool.or_eq_true, Bool.not_eq_true', beq_iff_eq, decide_eq_true_eq,
    and_mask_eq_pattern_iff, FieldBounds.Contains, and_assoc]
  simp only [rowOf, ← Bool.not_eq_true, ← imp_iff_not_or]

theorem mem_opcodes (c : Opcode) : c ∈ opcodes := by cases c <;> decide

/-- The table accepts a word for an opcode by that opcode's row. -/
theorem exists_row_iff {w : Word} {c : Opcode} :
    (∃ r ∈ opcodeTable, r.opcode = c ∧ rowAccepts r w = true) ↔ rowAccepts (rowOf c) w = true := by
  rw [opcodeTable_eq]
  constructor
  · rintro ⟨r, hr, rfl, hacc⟩
    obtain ⟨c, -, rfl⟩ := List.mem_map.mp hr
    exact hacc
  · intro hacc
    exact ⟨rowOf c, List.mem_map_of_mem (mem_opcodes c), rfl, hacc⟩

/-! ### The operands within the bounds -/

/-- The fields of a command's operands are within its opcode's bounds. -/
theorem OperandFields.in_bounds {w : Word} {i : Instr} (h : OperandFields w i) : (fieldBounds (instrOpcode i)).Contains w := by
  have hx := fieldX_lt w
  have hy := fieldY_lt w
  have hp := fieldP_lt w
  have hq := fieldQ_lt w
  have hhalves := fieldQ_eq w
  have hlo := fieldQLo_lt w
  cases i with
  | nop | encode | verify | decode | gfadd d a b | gfmul d a b | gfmulx d a b | gfdiv d a b | gfinv d a | gfexp d a
  | mload d rows cols | create k m =>
    simp only [FieldBounds.Contains, fieldBounds, instrOpcode, OperandFields, Bool.false_eq_true, false_imp_iff,
      and_true] at h ⊢
    omega
  | mstore ms | minv d ms | msub d ms n | code ms nin nout | check ms nin nout =>
    have hms := Laws.sourceField_le ms
    simp only [FieldBounds.Contains, fieldBounds, instrOpcode, OperandFields, Bool.false_eq_true, false_imp_iff,
      and_true] at h ⊢
    omega
  | mmul d ma mb =>
    have hma := Laws.sourceField_le ma
    have hmb := Laws.sourceField_le mb
    simp only [FieldBounds.Contains, fieldBounds, instrOpcode, OperandFields] at h ⊢
    omega

/-- A field of at most 4 names a matrix source (R96 (d)). -/
theorem exists_sourceField {f : Nat} (h : f ≤ 4) : ∃ ms, f = sourceField ms := by
  rcases Nat.lt_or_eq_of_le h with hlt | rfl
  · exact ⟨.m ⟨f, hlt⟩, rfl⟩
  · exact ⟨.em, rfl⟩

/-- Fields within an opcode's bounds are the operands of a command of that opcode. -/
theorem exists_of_contains {w : Word} {c : Opcode} (h : (fieldBounds c).Contains w) :
    ∃ i, instrOpcode i = c ∧ OperandFields w i := by
  have hhalves := fieldQ_eq w
  have hlo := fieldQLo_lt w
  obtain ⟨hx, hy, hp, hq, hys, hqs⟩ := h
  cases c <;> simp only [fieldBounds, Nat.reducePow] at hx hy hp hq
  case nop => exact ⟨.nop, rfl, by omega, by omega, by omega, by omega⟩
  case encode => exact ⟨.encode, rfl, by omega, by omega, by omega, by omega⟩
  case verify => exact ⟨.verify, rfl, by omega, by omega, by omega, by omega⟩
  case decode => exact ⟨.decode, rfl, by omega, by omega, by omega, by omega⟩
  case gfadd => exact ⟨.gfadd ⟨_, hx⟩ ⟨_, hy⟩ ⟨_, hlo⟩, rfl, rfl, rfl, by omega, by omega, rfl⟩
  case gfmul => exact ⟨.gfmul ⟨_, hx⟩ ⟨_, hy⟩ ⟨_, hlo⟩, rfl, rfl, rfl, by omega, by omega, rfl⟩
  case gfmulx => exact ⟨.gfmulx ⟨_, hx⟩ ⟨_, hy⟩ ⟨_, hlo⟩, rfl, rfl, rfl, by omega, by omega, rfl⟩
  case gfdiv => exact ⟨.gfdiv ⟨_, hx⟩ ⟨_, hy⟩ ⟨_, hlo⟩, rfl, rfl, rfl, by omega, by omega, rfl⟩
  case gfinv => exact ⟨.gfinv ⟨_, hx⟩ ⟨_, hy⟩, rfl, rfl, rfl, by omega, by omega⟩
  case gfexp => exact ⟨.gfexp ⟨_, hx⟩ ⟨_, hy⟩, rfl, rfl, rfl, by omega, by omega⟩
  case mload => exact ⟨.mload ⟨_, hx⟩ _ _, rfl, rfl, by omega, rfl, rfl⟩
  case create => exact ⟨.create _ _, rfl, rfl, rfl⟩
  case mmul =>
    obtain ⟨ma, hma⟩ := exists_sourceField (hys rfl)
    obtain ⟨mb, hmb⟩ := exists_sourceField (hqs rfl)
    exact ⟨.mmul ⟨_, hx⟩ ma mb, rfl, rfl, hma, by omega, by omega, by omega⟩
  all_goals obtain ⟨ms, hms⟩ := exists_sourceField (hys rfl)
  case mstore => exact ⟨.mstore ms, rfl, by omega, hms, by omega, by omega⟩
  case minv => exact ⟨.minv ⟨_, hx⟩ ms, rfl, rfl, hms, by omega, by omega⟩
  case msub => exact ⟨.msub ⟨_, hx⟩ ms _, rfl, rfl, hms, by omega, rfl⟩
  case code => exact ⟨.code ms _ _, rfl, by omega, hms, rfl, rfl⟩
  case check => exact ⟨.check ms _ _, rfl, by omega, hms, rfl, rfl⟩

/-- Settles O3: both sides say that the word has the opcode's byte and fields within its bounds. -/
theorem decoderAgreesWithMatchAndMask : Obligations.DecoderAgreesWithMatchAndMask := by
  unfold Obligations.DecoderAgreesWithMatchAndMask
  intro w c
  rw [exists_row_iff, rowAccepts_rowOf]
  constructor
  · rintro ⟨i, hi, rfl⟩
    obtain ⟨hop, hf⟩ := fields_of_decode_ok hi
    exact ⟨hop, hf.in_bounds⟩
  · rintro ⟨hop, hin⟩
    obtain ⟨i, rfl, hf⟩ := exists_of_contains hin
    exact ⟨i, decode_ok_of_fields hop hf, rfl⟩

end Sys2Proof
end

section
/-! SUPPORT and the proofs of O13, O14 and O15. The field: every nonzero element is a power of `GEN`, and on powers each
operation of R122 to R132 is arithmetic on exponents. -/

namespace Sys2Proof.Machine

/-! ### Both steps of R122 add a byte or nothing -/

/-- `m`, or 0 where the bit that selects it is clear. -/
def maskedBy (p : Bool) (m : Byte) : Byte := if p then m else 0

theorem maskedBy_xor (p q : Bool) (m : Byte) : maskedBy (p ^^ q) m = maskedBy p m ^^^ maskedBy q m := by
  cases p <;> cases q <;> simp [maskedBy]

theorem maskedBy_zero (p : Bool) : maskedBy p 0 = 0 := ite_self 0

theorem timesT_eq_xor (a : Byte) : timesT a = a <<< 1 ^^^ maskedBy (a.getLsbD 7) Config.polyLow := by
  unfold timesT maskedBy
  split
  · rfl
  · exact BitVec.xor_zero.symm

theorem gfMulLoop_cons (b : Byte) (i : Nat) (bits : List Nat) (a r : Byte) :
    gfMulLoop b (i :: bits) a r = gfMulLoop b bits (timesT a) (r ^^^ maskedBy (b.getLsbD i) a) := by
  unfold maskedBy
  rw [gfMulLoop]
  split
  · rfl
  · exact congrArg _ BitVec.xor_zero.symm

/-! ### Multiplication by `t`, and the loop of R122 under it -/

theorem timesT_zero : timesT 0 = 0 := by decide

theorem timesT_xor (a b : Byte) : timesT (a ^^^ b) = timesT a ^^^ timesT b := by
  simp only [timesT_eq_xor, BitVec.shiftLeft_xor_distrib, BitVec.getLsbD_xor, maskedBy_xor]
  ac_rfl

theorem timesT_maskedBy (p : Bool) (m : Byte) : timesT (maskedBy p m) = maskedBy p (timesT m) := by
  cases p
  · exact timesT_zero
  · rfl

/-- Multiplying both variables of the loop by `t` multiplies its result by `t`. -/
theorem gfMulLoop_timesT (b : Byte) (bits : List Nat) (a r : Byte) :
    gfMulLoop b bits (timesT a) (timesT r) = timesT (gfMulLoop b bits a r) := by
  induction bits generalizing a r with
  | nil => rfl
  | cons i rest ih => rw [gfMulLoop_cons, gfMulLoop_cons, ← timesT_maskedBy, ← timesT_xor, ih]

/-- The loop is additive in its multiplier and its accumulator together. -/
theorem gfMulLoop_xor (b c : Byte) (bits : List Nat) (a r q : Byte) :
    gfMulLoop (b ^^^ c) bits a (r ^^^ q) = gfMulLoop b bits a r ^^^ gfMulLoop c bits a q := by
  induction bits generalizing a r q with
  | nil => rfl
  | cons i rest ih =>
    simp only [gfMulLoop_cons, ← ih, BitVec.getLsbD_xor, maskedBy_xor]
    congr 1
    ac_rfl

theorem gfMulLoop_zero_left (b : Byte) (bits : List Nat) (r : Byte) : gfMulLoop b bits 0 r = r := by
  induction bits with
  | nil => rfl
  | cons i rest ih =>
    rw [gfMulLoop_cons, timesT_zero, maskedBy_zero]
    exact (congrArg _ BitVec.xor_zero).trans ih

/-! ### The reference product (R122) -/

theorem gfMul_timesT (a b : Byte) : gfMul (timesT a) b = timesT (gfMul a b) := by
  have h := gfMulLoop_timesT b (List.range 8) a 0
  rwa [timesT_zero] at h

theorem gfMul_xor (a b c : Byte) : gfMul a (b ^^^ c) = gfMul a b ^^^ gfMul a c :=
  gfMulLoop_xor b c (List.range 8) a 0 0

theorem zero_gfMul (b : Byte) : gfMul 0 b = 0 := gfMulLoop_zero_left b _ 0

theorem gfMul_zero (a : Byte) : gfMul a 0 = 0 := by
  have h := gfMul_xor a 0 0
  rwa [BitVec.xor_self, BitVec.xor_self] at h

/-- The powers of `t` that the loop adds up for `a = 1` are the bits of `b`. -/
theorem one_gfMul : ∀ b : Byte, gfMul 1 b = b := by decide +kernel

/-! ### The powers of `GEN` (R123) -/

/-- `GEN` to the power `n`: `GEN` is the element `t`. -/
def genPow (n : Nat) : Byte := timesT^[n] 1

theorem genPow_zero : genPow 0 = 1 := rfl

theorem genPow_succ (n : Nat) : genPow (n + 1) = timesT (genPow n) := Function.iterate_succ_apply' timesT n 1

theorem genPow_one : genPow 1 = 0x02 := by decide

theorem genPow_gfMul (i : Nat) (b : Byte) : gfMul (genPow i) b = timesT^[i] b := by
  induction i with
  | zero => exact one_gfMul b
  | succ i ih => rw [genPow_succ, gfMul_timesT, ih, Function.iterate_succ_apply']

theorem gfMul_genPow (i j : Nat) : gfMul (genPow i) (genPow j) = genPow (i + j) := by
  rw [genPow_gfMul, genPow, ← Function.iterate_add_apply, genPow]

/-! ### The printed tables (R124, R125) -/

theorem expTable_length : expTable.length = 255 := by decide +kernel

theorem logTable_length : logTable.length = 255 := by decide +kernel

/-- Each entry of EXP is its predecessor times `t`. -/
theorem expAt_succ : ∀ i < 254, expAt (i + 1) = timesT (expAt i) := by decide +kernel

theorem timesT_expAt_last : timesT (expAt 254) = 1 := by decide +kernel

theorem logAt_expAt : ∀ i < 255, (logAt (expAt i)).toNat = i := by decide +kernel

theorem expAt_logAt : ∀ a : Byte, a ≠ 0 → (logAt a).toNat < 255 ∧ expAt (logAt a).toNat = a := by decide +kernel

theorem expAt_eq_genPow {i : Nat} (h : i < 255) : expAt i = genPow i := by
  induction i with
  | zero => rfl
  | succ i ih => rw [expAt_succ i (by omega), ih (by omega), genPow_succ]

/-- The powers of `GEN` repeat after 255 steps. -/
theorem genPow_periodic : Function.IsPeriodicPt timesT 255 (1 : Byte) := by
  show genPow (254 + 1) = 1
  rw [genPow_succ, ← expAt_eq_genPow (by decide), timesT_expAt_last]

theorem genPow_mod (n : Nat) : genPow (n % 255) = genPow n := genPow_periodic.iterate_mod_apply n

/-- EXP read at an exponent reduced modulo 255, as R128, R130 and R132 read it. -/
theorem expAt_mod (n : Nat) : expAt (n % 255) = genPow n := by
  rw [expAt_eq_genPow (Nat.mod_lt n (by decide)), genPow_mod]

theorem genPow_mul_255 (n : Nat) : genPow (n * 255) = 1 := by
  rw [← genPow_mod, Nat.mul_mod_left, genPow_zero]

theorem genPow_logAt {a : Byte} (h : a ≠ 0) : genPow (logAt a).toNat = a := by
  obtain ⟨hlt, hexp⟩ := expAt_logAt a h
  rw [← expAt_eq_genPow hlt, hexp]

/-- Case split for the laws: zero, or a power of `GEN`. -/
theorem eq_zero_or_genPow (a : Byte) : a = 0 ∨ ∃ n, genPow n = a :=
  (eq_or_ne a 0).imp_right fun h => ⟨_, genPow_logAt h⟩

/-! ### The laws of the product (R133) -/

theorem gfMul_comm (a b : Byte) : gfMul a b = gfMul b a := by
  rcases eq_zero_or_genPow a with rfl | ⟨i, rfl⟩
  · rw [zero_gfMul, gfMul_zero]
  rcases eq_zero_or_genPow b with rfl | ⟨j, rfl⟩
  · rw [zero_gfMul, gfMul_zero]
  rw [gfMul_genPow, gfMul_genPow, Nat.add_comm]

theorem gfMul_assoc (a b c : Byte) : gfMul (gfMul a b) c = gfMul a (gfMul b c) := by
  rcases eq_zero_or_genPow a with rfl | ⟨i, rfl⟩
  · rw [zero_gfMul, zero_gfMul, zero_gfMul]
  rcases eq_zero_or_genPow b with rfl | ⟨j, rfl⟩
  · rw [gfMul_zero, zero_gfMul, gfMul_zero]
  rw [gfMul_genPow, genPow_gfMul (i + j), genPow_gfMul j, genPow_gfMul i, Function.iterate_add_apply]

theorem gfMul_one (a : Byte) : gfMul a 1 = a := by rw [gfMul_comm, one_gfMul]

theorem gfMul_gen (a : Byte) : gfMul a 0x02 = timesT a := by
  rw [gfMul_comm, ← genPow_one, genPow_gfMul, Function.iterate_one]

/-! ### The functions on the tables (R127 to R132) -/

theorem mulT_eq_gfMul (a b : Byte) : mulT a b = gfMul a b := rfl

theorem mulX_eq_gfMul (a b : Byte) : mulX a b = gfMul a b := by
  unfold mulX
  split
  next hzero =>
    rcases hzero with rfl | rfl
    · rw [zero_gfMul]
    · rw [gfMul_zero]
  next hne =>
    obtain ⟨ha, hb⟩ := not_or.mp hne
    rw [expAt_mod, ← gfMul_genPow, genPow_logAt ha, genPow_logAt hb]

theorem gfDiv_zero (a : Byte) : gfDiv a 0 = .error .divideByZero := rfl

theorem zero_gfDiv {b : Byte} (hb : b ≠ 0) : gfDiv 0 b = .ok 0 := by
  rw [gfDiv, if_neg hb, if_pos rfl]

theorem gfDiv_of_ne_zero {a b : Byte} (ha : a ≠ 0) (hb : b ≠ 0) :
    gfDiv a b = .ok (genPow ((logAt a).toNat + 255 - (logAt b).toNat)) := by
  rw [gfDiv, if_neg hb, if_neg ha, expAt_mod]

/-- The exponent of the quotient is the difference of the logarithms. -/
theorem exists_gfDiv (a : Byte) {b : Byte} (hb : b ≠ 0) : ∃ q, gfDiv a b = .ok q ∧ gfMul q b = a := by
  rcases eq_or_ne a 0 with rfl | ha
  · exact ⟨0, zero_gfDiv hb, zero_gfMul b⟩
  refine ⟨_, gfDiv_of_ne_zero ha hb, ?_⟩
  have hlt := (expAt_logAt b hb).1
  calc gfMul (genPow ((logAt a).toNat + 255 - (logAt b).toNat)) b
      = gfMul (genPow ((logAt a).toNat + 255 - (logAt b).toNat)) (genPow (logAt b).toNat) := by rw [genPow_logAt hb]
    _ = genPow ((logAt a).toNat + 255) := by rw [gfMul_genPow, Nat.sub_add_cancel (by omega)]
    _ = a := by rw [← genPow_mod, Nat.add_mod_right, genPow_mod, genPow_logAt ha]

theorem gfMul_right_cancel {a a' b : Byte} (hb : b ≠ 0) (h : gfMul a b = gfMul a' b) : a = a' := by
  obtain ⟨v, -, hv⟩ := exists_gfDiv 1 hb
  have hinv : gfMul b v = 1 := by rw [gfMul_comm, hv]
  calc a = gfMul (gfMul a b) v := by rw [gfMul_assoc, hinv, gfMul_one]
    _ = a' := by rw [h, gfMul_assoc, hinv, gfMul_one]

/-- R130: the quotient is the one element whose product with the divisor is the dividend. -/
theorem gfDiv_eq_ok_iff {a b q : Byte} (hb : b ≠ 0) : gfDiv a b = .ok q ↔ gfMul q b = a := by
  obtain ⟨v, hv, hmul⟩ := exists_gfDiv a hb
  rw [hv, Except.ok.injEq]
  constructor
  · rintro rfl
    exact hmul
  · exact fun hq => gfMul_right_cancel hb (hmul.trans hq.symm)

/-- R131: the inverse is the one element whose product with the operand is 1. -/
theorem gfInv_eq_ok_iff {a v : Byte} (ha : a ≠ 0) : gfInv a = .ok v ↔ gfMul a v = 1 := by
  rw [gfInv, gfDiv_eq_ok_iff ha, gfMul_comm]

theorem exists_gfInv {a : Byte} (ha : a ≠ 0) : ∃ v, gfInv a = .ok v ∧ gfMul a v = 1 := by
  obtain ⟨v, hv, -⟩ := exists_gfDiv 1 ha
  exact ⟨v, hv, (gfInv_eq_ok_iff ha).mp hv⟩

theorem gfExp_of_ne_zero {a : Byte} (ha : a ≠ 0) (n : Nat) : gfExp a n = genPow ((logAt a).toNat * n) := by
  rcases eq_or_ne n 0 with rfl | hn
  · rfl
  · rw [gfExp, if_neg hn, if_neg ha, expAt_mod]

theorem gfExp_succ (a : Byte) (n : Nat) : gfExp a (n + 1) = gfMul (gfExp a n) a := by
  rcases eq_or_ne a 0 with rfl | ha
  · rw [gfMul_zero, gfExp, if_neg n.succ_ne_zero, if_pos rfl]
  · calc gfExp a (n + 1) = genPow ((logAt a).toNat * n + (logAt a).toNat) := gfExp_of_ne_zero ha _
      _ = gfMul (gfExp a n) a := by rw [← gfMul_genPow, gfExp_of_ne_zero ha, genPow_logAt ha]

/-- R132: the `n`-fold product, the empty one being 1. -/
theorem gfExp_eq_iterate (a : Byte) (n : Nat) : gfExp a n = (fun r => gfMul r a)^[n] 1 := by
  induction n with
  | zero => rfl
  | succ n ih => rw [gfExp_succ, ih, Function.iterate_succ_apply']

theorem gfExp_255 {a : Byte} (ha : a ≠ 0) : gfExp a 255 = 1 := by
  rw [gfExp_of_ne_zero ha, genPow_mul_255]

/-! ### The obligations about the field -/

/-- Settles O13: the tables' recurrence is multiplication by `t`, which is the product with 2. -/
theorem tablesArePowersAndLogarithms : Obligations.TablesArePowersAndLogarithms := by
  unfold Obligations.TablesArePowersAndLogarithms
  simp only [gfMul_gen]
  exact ⟨expTable_length, logTable_length, rfl, expAt_succ, timesT_expAt_last, logAt_expAt, expAt_logAt⟩

/-- Settles O14: `mul_T` reads the product itself, `mul_X` adds exponents. -/
theorem multiplicationMethodsAgree : Obligations.MultiplicationMethodsAgree :=
  fun a b => ⟨mulT_eq_gfMul a b, mulX_eq_gfMul a b⟩

/-- Settles O15: the laws hold of exponents, and of zero by itself. -/
theorem fieldLawsHold : Obligations.FieldLawsHold := by
  unfold Obligations.FieldLawsHold
  exact ⟨gfMul_comm, gfMul_assoc, gfMul_xor, fun a => ⟨gfMul_one a, gfMul_zero a⟩, fun a ha => exists_gfInv ha,
    fun a b hb => ⟨exists_gfDiv a hb, (gfDiv_eq_ok_iff hb).mpr rfl⟩, gfExp_succ, fun a ha => gfExp_255 ha⟩

end Sys2Proof.Machine
end

section
/-! SUPPORT and the proofs of O16 to O20. The six GF commands, by what the field functions answer. -/

namespace Sys2Proof.Machine

section
variable (d a b : Fin 16) (s : State)

theorem exec_gfadd : exec (.gfadd d a b) s = finishField d (.ok (gfAdd s.core.x[a] s.core.x[b])) s := rfl

theorem exec_gfmul : exec (.gfmul d a b) s = finishField d (.ok (mulT s.core.x[a] s.core.x[b])) s := rfl

theorem exec_gfmulx : exec (.gfmulx d a b) s = finishField d (.ok (mulX s.core.x[a] s.core.x[b])) s := rfl

theorem exec_gfdiv : exec (.gfdiv d a b) s = finishField d (gfDiv s.core.x[a] s.core.x[b]) s := rfl

theorem exec_gfinv : exec (.gfinv d a) s = finishField d (gfInv s.core.x[a]) s := rfl

theorem exec_gfexp : exec (.gfexp d a) s = finishField d (.ok (gfExp s.core.x[a] s.core.n.toNat)) s := rfl

end

/-- The whole next state of a field command that completes (R140). -/
theorem finishField_ok_eq_next (d : Fin 16) (v : Byte) (s : State) :
    finishField d (.ok v) s = .next { s with core.x := s.core.x.set d v, core.status.err := 0 } := rfl

/-- The whole next state of a field command whose divisor is zero (R130, R131). -/
theorem finishField_divideByZero (d : Fin 16) (s : State) :
    finishField d (.error .divideByZero) s = .next { s with core.status.err := 4 } := rfl

/-- Settles O16: GFADD's result is the exclusive-or, GFMUL's one read of the product table. -/
theorem gfaddGfmulWriteTheirResult : Obligations.GfaddGfmulWriteTheirResult := by
  unfold Obligations.GfaddGfmulWriteTheirResult
  intro d a b s
  rw [exec_gfadd, exec_gfmul, mulT_eq_gfMul]
  exact ⟨finishField_ok_eq_next d _ s, finishField_ok_eq_next d _ s⟩

/-- Settles O17: the log and exponent tables give the product, zero operands included. -/
theorem gfmulxWritesTheProduct : Obligations.GfmulxWritesTheProduct := by
  unfold Obligations.GfmulxWritesTheProduct
  intro d a b s
  rw [exec_gfmulx, mulX_eq_gfMul]
  exact finishField_ok_eq_next d _ s

/-- Settles O18: `gf_div` answers the one quotient, and tests the divisor first. -/
theorem gfdivWritesQuotientOrRaises : Obligations.GfdivWritesQuotientOrRaises := by
  unfold Obligations.GfdivWritesQuotientOrRaises
  intro d a b s
  rw [exec_gfdiv]
  refine ⟨fun hzero => ?_, fun hne => ?_⟩
  · rw [hzero, gfDiv_zero, finishField_divideByZero]
  · obtain ⟨q, hq, hmul⟩ := exists_gfDiv s.core.x[a] hne
    rw [hq]
    exact ⟨q, hmul, fun q' hq' => gfMul_right_cancel hne (hq'.trans hmul.symm), finishField_ok_eq_next d q s⟩

/-- Settles O19: `gf_inv` answers the one inverse, and raises for zero. -/
theorem gfinvWritesInverseOrRaises : Obligations.GfinvWritesInverseOrRaises := by
  unfold Obligations.GfinvWritesInverseOrRaises
  intro d a s
  rw [exec_gfinv]
  refine ⟨fun hzero => ?_, fun hne => ?_⟩
  · rw [hzero, gfInv, gfDiv_zero, finishField_divideByZero]
  · obtain ⟨v, hv, hmul⟩ := exists_gfInv hne
    have hunique : ∀ v', gfMul s.core.x[a] v' = 1 → v' = v := fun v' hv' =>
      Except.ok.inj (((gfInv_eq_ok_iff hne).mpr hv').symm.trans hv)
    rw [hv]
    exact ⟨v, hmul, hunique, finishField_ok_eq_next d v s⟩

/-- Settles O20: `gf_exp` is the iterated product, at the whole register `N`. -/
theorem gfexpWritesThePower : Obligations.GfexpWritesThePower := by
  unfold Obligations.GfexpWritesThePower
  intro d a s
  rw [exec_gfexp, gfExp_eq_iterate]
  exact finishField_ok_eq_next d _ s

end Sys2Proof.Machine
end

section
/-! SUPPORT and the proofs of O21 to O25. Matrices and their images, and the matrix commands that compute without inversion. -/

namespace Sys2Proof.Machine

/-! ### Elements of matrices, and images in memory (R61, R160) -/

@[simp] theorem matOf_rows (rows cols : Nat) (f : Nat → Nat → Byte) : (matOf rows cols f).rows = rows := rfl

@[simp] theorem matOf_cols (rows cols : Nat) (f : Nat → Nat → Byte) : (matOf rows cols f).cols = cols := rfl

theorem matAt_matOf {rows cols r c : Nat} (f : Nat → Nat → Byte) (hr : r < rows) (hc : c < cols) :
    matAt (matOf rows cols f) r c = f r c := by
  simp [matAt, matOf, hr, hc]

/-- A matrix of legal shape (R37) is its dimensions and its elements. -/
theorem Matrix.wf.eq_matOf {A : Matrix} (h : A.wf) : A = matOf A.rows A.cols (matAt A) := by
  obtain ⟨rows, cols, data⟩ := A
  obtain ⟨rfl, rfl, rfl⟩ | ⟨-, -, -, -, hlen, hrow⟩ := h
  · rfl
  unfold matOf
  congr 1
  refine List.ext_getElem (by simpa using hlen) fun r hr _ => List.ext_getElem ?_ fun c hc _ => ?_
  · simpa using hrow _ (List.getElem_mem hr)
  · simp [matAt, hr, hc]

/-- An element's place in an image lies before the image's end. -/
theorem imageIndex_lt {rows cols r c : Nat} (hr : r < rows) (hc : c < cols) : r * cols + c < rows * cols := by
  have hrow : (r + 1) * cols ≤ rows * cols := Nat.mul_le_mul_right cols hr
  rw [Nat.succ_mul] at hrow
  omega

/-- A stored image holds each element at its place (R61, R167). -/
theorem Memory.read_writeBytes_matImage {mem : Memory} (hm : mem.wf) {base : Nat} {A : Matrix}
    (hfits : base + A.rows * A.cols ≤ Config.memSize) {r c : Nat} (hr : r < A.rows) (hc : c < A.cols) :
    (mem.writeBytes base (matImage A)).read (base + r * A.cols + c) = matAt A r c := by
  have hlt : r * A.cols + c < (matImage A).length := by
    rw [matImage_length]
    exact imageIndex_lt hr hc
  rw [Nat.add_assoc, Memory.read_writeBytes_inside hm base _ hlt (by rwa [matImage_length])]
  exact Option.some.inj ((List.getElem?_eq_getElem hlt).symm.trans ((loopNest_two (matAt A)).2 r hr c hc))

/-! ### What the matrix commands run, and the whole next state of each end -/

section
variable (d : Fin 4) (ms ma mb : MatSrc) (rows cols n : Nat) (s : State)

theorem exec_mload : exec (.mload d rows cols) s = execMload d rows cols s := rfl

theorem exec_mstore : exec (.mstore ms) s = execMstore ms s := rfl

theorem exec_mmul : exec (.mmul d ma mb) s = execMmul d ma mb s := rfl

theorem exec_msub : exec (.msub d ms n) s = execMsub d ms n s := rfl

theorem exec_minv : exec (.minv d ms) s = execMinv d ms s := rfl

theorem raise_dimensionMismatch_eq_next :
    raise false .dimensionMismatch s = .next { s with core.status.err := 2 } := rfl

theorem finishMatrix_ok_eq_next (A : Matrix) :
    finishMatrix d (.ok A) s = .next { s with core.m := s.core.m.set d A, core.status.err := 0 } := rfl

end

/-- The common source check (R171). -/
theorem isEmptyMatrix_iff {A : Matrix} : isEmptyMatrix A = true ↔ A.rows = 0 := beq_iff_eq

/-! ### MLOAD and MSTORE (R166, R167) -/

section
variable {d : Fin 4} {ms : MatSrc} {rows cols : Nat} {s : State}

theorem execMload_of_fits (h : s.imageBase + rows * cols ≤ Config.memSize) :
    execMload d rows cols s =
      .next { s with core.m := s.core.m.set d (loadedMatrix s rows cols), core.status.err := 0 } :=
  if_neg (Nat.not_lt.mpr h)

theorem execMload_of_not_fits (h : s.imageBase + rows * cols > Config.memSize) :
    execMload d rows cols s = .next { s with core.status.err := 2 } := if_pos h

theorem execMstore_of_fits (hne : (s.mat ms).rows ≠ 0)
    (hfits : s.imageBase + (s.mat ms).rows * (s.mat ms).cols ≤ Config.memSize) :
    execMstore ms s =
      .next { s with mem := s.mem.writeBytes s.imageBase (matImage (s.mat ms)), core.status.err := 0 } := by
  rw [execMstore, if_neg (isEmptyMatrix_iff.not.mpr hne), if_neg (Nat.not_lt.mpr hfits)]
  rfl

theorem execMstore_of_not_fits
    (h : (s.mat ms).rows = 0 ∨ s.imageBase + (s.mat ms).rows * (s.mat ms).cols > Config.memSize) :
    execMstore ms s = .next { s with core.status.err := 2 } := by
  unfold execMstore
  split
  · exact raise_dimensionMismatch_eq_next s
  next hne => rw [if_pos (h.resolve_left (isEmptyMatrix_iff.not.mp hne)), raise_dimensionMismatch_eq_next]

end

/-- Settles O21: the matrix that is built reads the image, and its dimensions are legal by R93. -/
theorem mloadReadsTheImage : Obligations.MloadReadsTheImage := by
  unfold Obligations.MloadReadsTheImage
  intro d rows cols s hwf
  obtain ⟨hrows, hcols⟩ : (1 ≤ rows ∧ rows ≤ 256) ∧ 1 ≤ cols ∧ cols ≤ 256 := by
    simpa [wellFormed, countOk] using hwf
  rw [exec_mload]
  exact ⟨fun hfits => ⟨loadedMatrix s rows cols, matOf_wf _ hrows hcols, rfl, rfl,
    fun r hr c hc => matAt_matOf _ hr hc, execMload_of_fits hfits⟩, execMload_of_not_fits⟩

/-- Settles O22: the image's bytes stand one after another from `MADDR` on. -/
theorem mstoreWritesTheImage : Obligations.MstoreWritesTheImage := by
  unfold Obligations.MstoreWritesTheImage
  intro ms s hm
  rw [exec_mstore]
  refine ⟨execMstore_of_not_fits, fun hne hfits => ⟨_, execMstore_of_fits hne hfits, fun r hr c hc => ?_, fun a ha => ?_⟩⟩
  · exact Memory.read_writeBytes_matImage hm hfits hr hc
  · exact Memory.read_writeBytes_outside _ _ _ (by rwa [matImage_length])

/-- Settles O23: MLOAD reads, element by element, the image that MSTORE wrote. -/
theorem mloadAfterMstoreRestores : Obligations.MloadAfterMstoreRestores := by
  unfold Obligations.MloadAfterMstoreRestores
  intro ms d s t hm hA hstore herr
  rw [exec_mstore] at hstore
  by_cases hfail : (s.mat ms).rows = 0 ∨ s.imageBase + (s.mat ms).rows * (s.mat ms).cols > Config.memSize
  · rw [execMstore_of_not_fits hfail] at hstore
    cases hstore
    exact absurd (show (2 : BitVec 3) = 0 from herr) (by decide)
  · obtain ⟨hne, hfits⟩ := not_or.mp hfail
    rw [execMstore_of_fits hne (Nat.not_lt.mp hfits)] at hstore
    cases hstore
    refine ⟨_, execMload_of_fits (Nat.not_lt.mp hfits), rfl, ?_⟩
    calc _ = matOf (s.mat ms).rows (s.mat ms).cols _ := Vector.getElem_set_self d.isLt
      _ = matOf (s.mat ms).rows (s.mat ms).cols (matAt (s.mat ms)) := matOf_congr fun r hr c hc =>
          Memory.read_writeBytes_matImage hm (Nat.not_lt.mp hfits) hr hc
      _ = s.mat ms := hA.eq_matOf.symm

/-! ### MMUL and MSUB (R168, R169) -/

theorem matMul_of_cols_eq {A B : Matrix} (h : A.cols = B.rows) :
    matMul A B = .ok (matOf A.rows B.cols fun r c => xorSum A.cols fun i => gfMul (matAt A r i) (matAt B i c)) :=
  if_neg (not_not.mpr h)

theorem matMul_of_cols_ne {A B : Matrix} (h : A.cols ≠ B.rows) : matMul A B = .error .dimensionMismatch := if_pos h

theorem matSub_of_rows_lt {A : Matrix} {L : List Nat} (hlen : L.length = A.cols) (hrows : ∀ r ∈ L, r < A.rows) :
    matSub A L = .ok (matOf A.cols A.cols fun j c => matAt A (L.getD j 0) c) := by
  have hany : ¬(L.any fun r => decide (A.rows ≤ r)) = true := by simpa using hrows
  rw [matSub, if_neg (not_not.mpr hlen), if_neg hany]

theorem matSub_of_length_ne_or_row {A : Matrix} {L : List Nat} (h : L.length ≠ A.cols ∨ ∃ r ∈ L, A.rows ≤ r) :
    matSub A L = .error .dimensionMismatch := by
  unfold matSub
  split
  · rfl
  next hlen => rw [if_pos (by simpa using h.resolve_left hlen)]

theorem State.selRows_length (s : State) (n : Nat) : (s.selRows n).length = n := by simp [State.selRows]

theorem State.mem_selRows {s : State} {n r : Nat} : r ∈ s.selRows n ↔ ∃ j < n, (s.selAt j).row.toNat = r := by
  simp [State.selRows]

theorem State.selRows_getD {s : State} {n j : Nat} (h : j < n) : (s.selRows n).getD j 0 = (s.selAt j).row.toNat := by
  simp [State.selRows, h]

/-- Settles O24: the checks of R171 and R161, then the product. -/
theorem mmulWritesTheProduct : Obligations.MmulWritesTheProduct := by
  unfold Obligations.MmulWritesTheProduct
  intro d ma mb s
  simp only [exec_mmul, execMmul, isEmptyMatrix_iff]
  refine ⟨fun hfail => ?_, fun hA hB hdim => ?_⟩
  · split_ifs with hA hB
    · exact raise_dimensionMismatch_eq_next s
    · exact raise_dimensionMismatch_eq_next s
    · rw [matMul_of_cols_ne ((hfail.resolve_left hA).resolve_left hB), finishMatrix_error, raise_dimensionMismatch_eq_next]
  · rw [if_neg hA, if_neg hB, matMul_of_cols_eq hdim]
    exact ⟨matOf _ _ _, rfl, rfl, fun r hr c hc => matAt_matOf _ hr hc, finishMatrix_ok_eq_next d s _⟩

/-- Settles O25: the checks of R171 and R162 on the list that `SEL` holds, then its rows. -/
theorem msubWritesTheListedRows : Obligations.MsubWritesTheListedRows := by
  unfold Obligations.MsubWritesTheListedRows
  intro d ms n s
  simp only [exec_msub, execMsub, isEmptyMatrix_iff]
  refine ⟨fun hfail => ?_, ?_⟩
  · split_ifs with hA
    · exact raise_dimensionMismatch_eq_next s
    · have hlist : (s.selRows n).length ≠ (s.mat ms).cols ∨ ∃ r ∈ s.selRows n, (s.mat ms).rows ≤ r := by
        simpa [State.selRows_length, State.mem_selRows] using hfail.resolve_left hA
      rw [matSub_of_length_ne_or_row hlist, finishMatrix_error, raise_dimensionMismatch_eq_next]
  · rintro hA rfl hrows
    have hlist : ∀ r ∈ s.selRows (s.mat ms).cols, r < (s.mat ms).rows := by
      simpa [State.mem_selRows] using hrows
    rw [if_neg hA, matSub_of_rows_lt (State.selRows_length s _) hlist]
    exact ⟨matOf _ _ _, rfl, rfl, fun j hj c hc => (matAt_matOf _ hj hc).trans (by rw [State.selRows_getD hj]),
      finishMatrix_ok_eq_next d s _⟩

end Sys2Proof.Machine
end

section
/-! SUPPORT. Bytes as elements of a Mathlib field, so that sums and matrices over it are Mathlib's (R120 to R122, R161). -/

namespace Sys2Proof

/-- Mathlib's matrices, under a name that `Sys2Proof.Machine.Matrix` does not hide. -/
abbrev FieldMatrix (m n : Nat) (K : Type) : Type := Matrix (Fin m) (Fin n) K

end Sys2Proof

namespace Sys2Proof.Machine

/-- `φ` reads bytes as elements of a field in which exclusive-or is addition and `gf_mul` is multiplication. -/
structure FieldCode {K : Type} [Field K] (φ : Byte → K) : Prop where
  injective : Function.Injective φ
  xor : ∀ a b, φ (a ^^^ b) = φ a + φ b
  mul : ∀ a b, φ (gfMul a b) = φ a * φ b

/-! ### Such a field exists -/

/-- The bytes without the arithmetic of bit vectors. -/
def FieldByte : Type := Byte

/-- `gf_inv`, completed by 0 at 0 as in every Mathlib field. -/
def invOrZero (a : Byte) : Byte := (gfInv a).toOption.getD 0

theorem invOrZero_zero : invOrZero 0 = 0 := by
  rw [invOrZero, gfInv, gfDiv_zero]
  rfl

theorem gfMul_invOrZero {a : Byte} (ha : a ≠ 0) : gfMul a (invOrZero a) = 1 := by
  obtain ⟨v, hv, hmul⟩ := exists_gfInv ha
  rw [invOrZero, hv]
  exact hmul

/-- R133's laws are those of a field. -/
abbrev byteField : Field FieldByte :=
  @Field.ofMinimalAxioms FieldByte ⟨gfAdd⟩ ⟨gfMul⟩ ⟨id⟩ ⟨invOrZero⟩ ⟨(0 : Byte)⟩ ⟨(1 : Byte)⟩
    (fun a b c => BitVec.xor_assoc (w := 8) a b c) (fun a => BitVec.zero_xor (w := 8) (x := a))
    (fun a => BitVec.xor_self (w := 8) (x := a)) gfMul_assoc gfMul_comm one_gfMul (fun _ => gfMul_invOrZero) invOrZero_zero
    gfMul_xor ⟨(0 : Byte), (1 : Byte), show (0 : Byte) ≠ 1 by decide⟩

theorem exists_fieldCode : ∃ (K : Type) (_ : Field K) (φ : Byte → K), FieldCode φ :=
  ⟨FieldByte, byteField, id, @FieldCode.mk _ byteField _ Function.injective_id (fun _ _ => rfl) fun _ _ => rfl⟩

/-! ### What the code keeps -/

section
variable {K : Type} [Field K] {φ : Byte → K} (hφ : FieldCode φ)
include hφ

theorem FieldCode.zero : φ 0 = 0 := left_eq_add.mp (show φ 0 = φ 0 + φ 0 from hφ.xor 0 0)

theorem FieldCode.eq_zero_iff {a : Byte} : φ a = 0 ↔ a = 0 := by rw [← hφ.zero, hφ.injective.eq_iff]

theorem FieldCode.one : φ 1 = 1 := by
  have h := hφ.mul 1 1
  rw [gfMul_one] at h
  exact (left_eq_mul₀ (hφ.eq_zero_iff.not.mpr (by decide))).mp h

theorem FieldCode.ite (p : Prop) [Decidable p] : φ (if p then 1 else 0) = if p then 1 else 0 := by
  rw [apply_ite φ, hφ.one, hφ.zero]

/-- R8's fold is a sum. -/
theorem FieldCode.xorSum (n : Nat) (f : Nat → Byte) : φ (xorSum n f) = ∑ i : Fin n, φ (f i) := by
  rw [Fin.sum_univ_eq_sum_range fun i => φ (f i)]
  induction n with
  | zero => exact hφ.zero
  | succ n ih =>
    rw [Finset.sum_range_succ, ← ih, ← hφ.xor, Machine.xorSum, List.range_succ, List.foldl_append]
    rfl

end

/-! ### Matrices -/

/-- The `m x n` block of a matrix value, read as field elements. -/
def codeMatrix {K : Type} (φ : Byte → K) (m n : Nat) (A : Matrix) : FieldMatrix m n K := .of fun r c => φ (matAt A r c)

section
variable {K : Type} [Field K] {φ : Byte → K} {m n l : Nat} {A B : Matrix}

omit [Field K] in
theorem codeMatrix_apply (r : Fin m) (c : Fin n) : codeMatrix φ m n A r c = φ (matAt A r c) := rfl

omit [Field K] in
theorem codeMatrix_matOf (f : Nat → Nat → Byte) : codeMatrix φ m n (matOf m n f) = .of fun r c => φ (f r c) := by
  ext r c
  rw [codeMatrix_apply, matAt_matOf f r.isLt c.isLt]
  rfl

variable (hφ : FieldCode φ)
include hφ

theorem codeMatrix_matId : codeMatrix φ n n (matId n) = 1 := by
  ext r c
  rw [matId, codeMatrix_matOf]
  exact (hφ.ite _).trans (by simp [Matrix.one_apply, Fin.ext_iff])

theorem matOf_eq_matOf_iff {f g : Nat → Nat → Byte} :
    matOf m n f = matOf m n g ↔ codeMatrix φ m n (matOf m n f) = codeMatrix φ m n (matOf m n g) := by
  refine ⟨congrArg _, fun h => matOf_congr fun r hr c hc => hφ.injective ?_⟩
  rw [codeMatrix_matOf, codeMatrix_matOf] at h
  exact congrFun (congrFun h ⟨r, hr⟩) ⟨c, hc⟩

/-- `mat_mul` (R161) is the product of matrices over the field. -/
theorem codeMatrix_product (A B : Matrix) :
    codeMatrix φ m n (matOf m n fun r c => xorSum l fun i => gfMul (matAt A r i) (matAt B i c)) =
      codeMatrix φ m l A * codeMatrix φ l n B := by
  ext r c
  rw [codeMatrix_matOf, Matrix.mul_apply]
  simp [hφ.xorSum, hφ.mul, codeMatrix_apply]

/-- The equation that defines a right inverse of a square matrix, over the field. -/
theorem matMul_eq_matId_iff (hrows : A.rows = n) (hcols : A.cols = n) :
    matMul A B = .ok (matId n) ↔ B.rows = n ∧ B.cols = n ∧ codeMatrix φ n n A * codeMatrix φ n n B = 1 := by
  by_cases hBrows : B.rows = n
  swap
  · rw [matMul_of_cols_ne (by omega)]
    simp [hBrows]
  rw [matMul_of_cols_eq (by omega), hrows, hcols, Except.ok.injEq]
  by_cases hBcols : B.cols = n
  swap
  · have hne : ∀ f, matOf n B.cols f ≠ matId n := fun f h => hBcols (congrArg Matrix.cols h)
    simp [hBcols, hne]
  rw [hBcols, matId, matOf_eq_matOf_iff hφ, codeMatrix_product hφ, ← matId, codeMatrix_matId hφ]
  simp [hBrows]

end

end Sys2Proof.Machine
end

section
/-! SUPPORT and the proofs of O26 and O27. Gaussian elimination (R163): each column's operations can be undone, so they keep the
null space of the work array; the pivots make its left half the identity, or leave a null vector in it. -/

namespace Sys2Proof.Machine

/-! ### The operations on rows, entry by entry -/

/-- The work array has `n` rows of `2n` elements (R163). -/
structure WorkShape (n : Nat) (W : List (List Byte)) : Prop where
  length : W.length = n
  width : ∀ i < n, (W.getD i []).length = 2 * n

theorem getD_scaleRow (f : Byte) (row : List Byte) (j : Nat) : (scaleRow f row).getD j 0 = gfMul f (row.getD j 0) := by
  have h := List.getD_map (f := gfMul f) (l := row) (n := j) (d := 0)
  rwa [gfMul_zero] at h

theorem length_scaleRow (f : Byte) (row : List Byte) : (scaleRow f row).length = row.length := List.length_map _

theorem length_clearRow {pivotRow row : List Byte} (col : Nat) (h : row.length = pivotRow.length) :
    (clearRow pivotRow col row).length = row.length := by
  unfold clearRow
  split
  · rfl
  · rw [List.length_zipWith, length_scaleRow, ← h, Nat.min_self]

theorem getD_clearRow {pivotRow row : List Byte} (col : Nat) (h : row.length = pivotRow.length) (j : Nat) :
    (clearRow pivotRow col row).getD j 0 = row.getD j 0 ^^^ gfMul (row.getD col 0) (pivotRow.getD j 0) := by
  unfold clearRow
  split
  next hzero =>
    rw [hzero, zero_gfMul]
    exact BitVec.xor_zero.symm
  next =>
    rw [← getD_scaleRow]
    by_cases hj : j < row.length
    · simp [scaleRow, hj, h ▸ hj]
    · simp [scaleRow, hj, h ▸ hj]

theorem length_swapRows (W : List (List Byte)) (i j : Nat) : (swapRows W i j).length = W.length := by simp [swapRows]

theorem getD_swapRows {W : List (List Byte)} {i j : Nat} (hi : i < W.length) (hj : j < W.length) (k : Nat) :
    (swapRows W i j).getD k [] = W.getD (Equiv.swap i j k) [] := by
  unfold swapRows
  by_cases hkj : k = j
  · subst hkj
    rw [Equiv.swap_apply_right]
    simp [hi, hj]
  by_cases hki : k = i
  · subst hki
    rw [Equiv.swap_apply_left]
    simp [hi, hj, Ne.symm hkj]
  · rw [Equiv.swap_apply_of_ne_of_ne hki hkj]
    simp [Ne.symm hki, Ne.symm hkj]

/-- A swap of two rows of the array stays in the array. -/
theorem swap_lt {n i j k : Nat} (hi : i < n) (hj : j < n) (hk : k < n) : Equiv.swap i j k < n := by
  rw [Equiv.swap_apply_def]
  split_ifs <;> assumption

theorem mem_drop_range {n k i : Nat} : i ∈ (List.range n).drop k ↔ k ≤ i ∧ i < n := by
  rw [List.range_eq_range', List.drop_range', List.mem_range'_1]
  omega

theorem findPivot_eq_none {W : List (List Byte)} {n col : Nat} (h : findPivot W n col = none) :
    ∀ i, col ≤ i → i < n → workAt W i col = 0 := fun i hle hlt => by
  simpa using List.find?_eq_none.mp h i (mem_drop_range.mpr ⟨hle, hlt⟩)

theorem findPivot_eq_some {W : List (List Byte)} {n col piv : Nat} (h : findPivot W n col = some piv) :
    col ≤ piv ∧ piv < n ∧ workAt W piv col ≠ 0 := by
  obtain ⟨hle, hlt⟩ := mem_drop_range.mp (List.mem_of_find?_eq_some h)
  exact ⟨hle, hlt, by simpa using List.find?_some h⟩

/-! ### One column -/

/-- What one column's operations leave: row `piv` scaled by `s` and moved to the diagonal, every other row cleared. -/
structure ColumnCleared (n col piv : Nat) (s : Byte) (W W' : List (List Byte)) : Prop where
  col_le : col ≤ piv
  piv_lt : piv < n
  scale : gfMul (workAt W piv col) s = 1
  shape : WorkShape n W'
  pivotRow : ∀ j, workAt W' col j = gfMul s (workAt W piv j)
  otherRow : ∀ i < n, i ≠ col → ∀ j, workAt W' i j =
    workAt W (Equiv.swap piv col i) j ^^^ gfMul (workAt W (Equiv.swap piv col i) col) (workAt W' col j)

/-- The rows after the pass that clears a column, the pivot row among them (R163). -/
def clearedRows (pivotRow : List Byte) (col : Nat) (W : List (List Byte)) : List (List Byte) :=
  W.mapIdx fun row r => if row = col then pivotRow else clearRow pivotRow col r

theorem getD_clearedRows {W : List (List Byte)} {i : Nat} (hi : i < W.length) (pivotRow : List Byte) (col : Nat) :
    (clearedRows pivotRow col W).getD i [] = if i = col then pivotRow else clearRow pivotRow col (W.getD i []) := by
  simp [clearedRows, hi]

section
variable {n col piv : Nat} {s : Byte} {W : List (List Byte)}

theorem eliminateColumn_of_pivot (hpiv : findPivot W n col = some piv) (hlt : piv < W.length) (hcol : col < W.length)
    (hs : gfInv (workAt W piv col) = .ok s) :
    eliminateColumn n col W = .ok (clearedRows (scaleRow s (W.getD piv [])) col (swapRows W piv col)) := by
  have hrow : (swapRows W piv col).getD col [] = W.getD piv [] := by rw [getD_swapRows hlt hcol, Equiv.swap_apply_right]
  have hinv : gfInv (workAt (swapRows W piv col) col col) = .ok s := by rwa [workAt, hrow]
  simp only [eliminateColumn, hpiv, hinv, hrow, clearedRows]

theorem columnCleared_clearedRows (hW : WorkShape n W) (hcol : col < n) (hle : col ≤ piv) (hlt : piv < n)
    (hs : gfMul (workAt W piv col) s = 1) :
    ColumnCleared n col piv s W (clearedRows (scaleRow s (W.getD piv [])) col (swapRows W piv col)) := by
  obtain ⟨hlen, hwidth⟩ := hW
  have hrow : ∀ i < n, (clearedRows (scaleRow s (W.getD piv [])) col (swapRows W piv col)).getD i [] =
      if i = col then scaleRow s (W.getD piv [])
      else clearRow (scaleRow s (W.getD piv [])) col (W.getD (Equiv.swap piv col i) []) := fun i hi => by
    rw [getD_clearedRows (by rwa [length_swapRows, hlen]), getD_swapRows (hlen ▸ hlt) (hlen ▸ hcol)]
  have hsame : ∀ i < n, (W.getD (Equiv.swap piv col i) []).length = (scaleRow s (W.getD piv [])).length := fun i hi => by
    rw [length_scaleRow, hwidth piv hlt, hwidth _ (swap_lt hlt hcol hi)]
  refine ⟨hle, hlt, hs, ⟨?_, fun i hi => ?_⟩, fun j => ?_, fun i hi hic j => ?_⟩
  · rw [clearedRows, List.length_mapIdx, length_swapRows, hlen]
  · rw [hrow i hi]
    split
    · rw [length_scaleRow, hwidth piv hlt]
    · rw [length_clearRow col (hsame i hi), hwidth _ (swap_lt hlt hcol hi)]
  · rw [workAt, hrow col hcol, if_pos rfl, getD_scaleRow, workAt]
  · rw [workAt, hrow i hi, if_neg hic, getD_clearRow col (hsame i hi), workAt, workAt, workAt, hrow col hcol, if_pos rfl]

/-- One column: no pivot, or the operations with one. The inverse of a pivot exists, so no other condition arises (R163). -/
theorem eliminateColumn_cases (hW : WorkShape n W) (hcol : col < n) :
    (eliminateColumn n col W = .error .singular ∧ ∀ i, col ≤ i → i < n → workAt W i col = 0) ∨
    ∃ piv s W', eliminateColumn n col W = .ok W' ∧ ColumnCleared n col piv s W W' := by
  cases hpiv : findPivot W n col with
  | none => exact .inl ⟨by rw [eliminateColumn, hpiv], findPivot_eq_none hpiv⟩
  | some piv =>
    obtain ⟨hle, hlt, hne⟩ := findPivot_eq_some hpiv
    obtain ⟨s, hs, hmul⟩ := exists_gfInv hne
    exact .inr ⟨piv, s, _, eliminateColumn_of_pivot hpiv (hW.length ▸ hlt) (hW.length ▸ hcol) hs,
      columnCleared_clearedRows hW hcol hle hlt hmul⟩

end

/-- The first `k` columns of the work array are those of the identity. -/
def UnitColumns (n k : Nat) (W : List (List Byte)) : Prop := ∀ i < n, ∀ j < k, workAt W i j = if i = j then 1 else 0

theorem ColumnCleared.unitColumns {n col piv : Nat} {s : Byte} {W W' : List (List Byte)}
    (h : ColumnCleared n col piv s W W') (hunit : UnitColumns n col W) : UnitColumns n (col + 1) W' := by
  have hcol : col < n := Nat.lt_of_le_of_lt h.col_le h.piv_lt
  have hdiag : workAt W' col col = 1 := by rw [h.pivotRow, gfMul_comm, h.scale]
  intro i hi j hj
  rcases Nat.lt_succ_iff_lt_or_eq.mp hj with hlt | rfl
  · have hpiv : workAt W' col j = 0 := by
      rw [h.pivotRow, hunit piv h.piv_lt j hlt, if_neg (Nat.ne_of_gt (hlt.trans_le h.col_le)), gfMul_zero]
    by_cases hic : i = col
    · rw [hic, hpiv, if_neg (Nat.ne_of_gt hlt)]
    have hfixed : Equiv.swap piv col i = j ↔ i = j := by
      rw [Equiv.swap_apply_eq_iff, Equiv.swap_apply_of_ne_of_ne (Nat.ne_of_lt (hlt.trans_le h.col_le)) (Nat.ne_of_lt hlt)]
    rw [h.otherRow i hi hic, hpiv, gfMul_zero, hunit _ (swap_lt h.piv_lt hcol hi) j hlt]
    simp only [hfixed]
    exact BitVec.xor_zero
  · by_cases hij : i = j
    · rw [hij, if_pos rfl, hdiag]
    · rw [if_neg hij, h.otherRow i hi hij, hdiag, gfMul_one, BitVec.xor_self]
      rfl

/-! ### The null space of the work array -/

section
variable {K : Type} [Field K] {φ : Byte → K} {n : Nat}

/-- A row of the work array over the field. -/
def workRow (φ : Byte → K) (W : List (List Byte)) (i : Nat) : Nat → K := fun j => φ (workAt W i j)

/-- Every row of the work array lies in the kernel of `l`. -/
def RowsVanish (φ : Byte → K) (n : Nat) (W : List (List Byte)) (l : (Nat → K) →ₗ[K] K) : Prop :=
  ∀ i < n, l (workRow φ W i) = 0

/-- A column's operations can be undone: they keep every linear equation that all rows satisfy, and add none. -/
theorem ColumnCleared.rowsVanish_iff (hφ : FieldCode φ) {col piv : Nat} {s : Byte} {W W' : List (List Byte)}
    (h : ColumnCleared n col piv s W W') (l : (Nat → K) →ₗ[K] K) : RowsVanish φ n W' l ↔ RowsVanish φ n W l := by
  have hcol : col < n := Nat.lt_of_le_of_lt h.col_le h.piv_lt
  have hpivot : l (workRow φ W' col) = φ s * l (workRow φ W piv) := by
    rw [← smul_eq_mul, ← map_smul]
    congr 1
    ext j
    exact (congrArg φ (h.pivotRow j)).trans (hφ.mul _ _)
  have hother : ∀ i < n, i ≠ col → l (workRow φ W' i) = l (workRow φ W (Equiv.swap piv col i)) +
      φ (workAt W (Equiv.swap piv col i) col) * l (workRow φ W' col) := fun i hi hic => by
    rw [← smul_eq_mul, ← map_smul, ← map_add]
    congr 1
    ext j
    exact (congrArg φ (h.otherRow i hi hic j)).trans ((hφ.xor _ _).trans (congrArg _ (hφ.mul _ _)))
  have hs : φ s ≠ 0 := fun hzero => by
    have hone := h.scale
    rw [hφ.eq_zero_iff.mp hzero, gfMul_zero] at hone
    exact absurd hone (by decide)
  constructor
  · intro hW' i hi
    by_cases hic : Equiv.swap piv col i = col
    · rw [Equiv.swap_apply_eq_iff, Equiv.swap_apply_right] at hic
      rw [hic]
      exact (mul_eq_zero.mp (hpivot.symm.trans (hW' col hcol))).resolve_left hs
    · have hlt := swap_lt h.piv_lt hcol hi
      have hrow := hother _ hlt hic
      rwa [Equiv.swap_apply_self, hW' _ hlt, hW' col hcol, mul_zero, add_zero, eq_comm] at hrow
  · intro hW i hi
    by_cases hic : i = col
    · rw [hic, hpivot, hW piv h.piv_lt, mul_zero]
    · rw [hother i hi hic, hpivot, hW piv h.piv_lt, hW _ (swap_lt h.piv_lt hcol hi), mul_zero, mul_zero, add_zero]

/-! ### The loop over the columns -/

/-- `V` is the work array `W` after `k` columns. -/
structure Reduced (φ : Byte → K) (n k : Nat) (W V : List (List Byte)) : Prop where
  shape : WorkShape n V
  unitColumns : UnitColumns n k V
  rowsVanish_iff : ∀ l : (Nat → K) →ₗ[K] K, RowsVanish φ n V l ↔ RowsVanish φ n W l

/-- The loop reaches the last column, or it stops at the first without a pivot. -/
theorem eliminate_cases (hφ : FieldCode φ) {W V : List (List Byte)} {k m : Nat} (hn : k + m = n) (h : Reduced φ n k W V) :
    (∃ V', eliminate n (List.range' k m) V = .ok V' ∧ Reduced φ n n W V') ∨
    (eliminate n (List.range' k m) V = .error .singular ∧
      ∃ col < n, ∃ V', Reduced φ n col W V' ∧ ∀ i, col ≤ i → i < n → workAt V' i col = 0) := by
  induction m generalizing k V with
  | zero => exact .inl ⟨V, rfl, hn ▸ h⟩
  | succ m ih =>
    rw [List.range'_succ, eliminate]
    obtain ⟨herr, hzero⟩ | ⟨piv, s, V', hok, hcleared⟩ := eliminateColumn_cases h.shape (show k < n by omega)
    · rw [herr]
      exact .inr ⟨rfl, k, by omega, V, h, hzero⟩
    · rw [hok]
      exact ih (by omega) ⟨hcleared.shape, hcleared.unitColumns h.unitColumns,
        fun l => (hcleared.rowsVanish_iff hφ l).trans (h.rowsVanish_iff l)⟩

/-! ### The two halves of the work array -/

/-- The `n x n` block of the work array that begins at column `o`. -/
def workBlock (φ : Byte → K) (n o : Nat) (W : List (List Byte)) : FieldMatrix n n K := .of fun i j => φ (workAt W i (o + j))

/-- The dot product of a row of `2n` elements with the vector `u` above `v`. -/
def halvesDot (n : Nat) (u v : Fin n → K) : (Nat → K) →ₗ[K] K :=
  ∑ j : Fin n, (u j • LinearMap.proj (0 + j.val) + v j • LinearMap.proj (n + j.val))

theorem rowsVanish_halvesDot {W : List (List Byte)} {u v : Fin n → K} :
    RowsVanish φ n W (halvesDot n u v) ↔ (workBlock φ n 0 W).mulVec u + (workBlock φ n n W).mulVec v = 0 := by
  have hdot : ∀ i : Fin n, halvesDot n u v (workRow φ W i) =
      ((workBlock φ n 0 W).mulVec u + (workBlock φ n n W).mulVec v) i := fun i => by
    simp only [halvesDot, LinearMap.sum_apply, Finset.sum_add_distrib, LinearMap.add_apply, LinearMap.smul_apply,
      LinearMap.proj_apply, smul_eq_mul, Pi.add_apply, Matrix.mulVec, dotProduct, mul_comm (u _), mul_comm (v _)]
    rfl
  rw [funext_iff]
  exact ⟨fun h i => (hdot i).symm.trans (h i i.isLt), fun h i hi => (hdot ⟨i, hi⟩).trans (h ⟨i, hi⟩)⟩

theorem workShape_augment (A : Matrix) (n : Nat) : WorkShape n (augment A n) := by
  refine ⟨by simp [augment], fun i hi => ?_⟩
  simp [augment, hi]
  omega

omit [Field K] in
theorem workBlock_zero_augment (A : Matrix) : workBlock φ n 0 (augment A n) = codeMatrix φ n n A := by
  ext i j
  simp [workBlock, codeMatrix, workAt, augment, List.getElem?_append]

theorem workBlock_augment (hφ : FieldCode φ) (A : Matrix) : workBlock φ n n (augment A n) = 1 := by
  rw [← codeMatrix_matId hφ]
  ext i j
  simp [workBlock, codeMatrix, workAt, augment]

theorem UnitColumns.workBlock_apply (hφ : FieldCode φ) {W : List (List Byte)} {k : Nat} (h : UnitColumns n k W) (i : Fin n)
    {j : Fin n} (hj : j < k) : workBlock φ n 0 W i j = if i = j then 1 else 0 := by
  refine (congrArg φ (h i i.isLt (0 + j) (by omega))).trans ((hφ.ite _).trans ?_)
  simp [Fin.ext_iff]

theorem UnitColumns.workBlock_zero (hφ : FieldCode φ) {W : List (List Byte)} (h : UnitColumns n n W) : workBlock φ n 0 W = 1 := by
  ext i j
  rw [h.workBlock_apply hφ i j.isLt, Matrix.one_apply]

/-- Column `k` of the work array down to the diagonal, and zeros from there on. -/
def columnAbove (φ : Byte → K) (n k : Nat) (W : List (List Byte)) : Fin n → K := fun i => if i < k then φ (workAt W i k) else 0

/-- A vector in the span of the first `k` unit vectors is kept by an array whose first `k` columns are those. -/
theorem UnitColumns.mulVec_columnAbove (hφ : FieldCode φ) {W : List (List Byte)} {k : Nat} (h : UnitColumns n k W) :
    (workBlock φ n 0 W).mulVec (columnAbove φ n k W) = columnAbove φ n k W := by
  ext i
  have hterm : ∀ j : Fin n, workBlock φ n 0 W i j * columnAbove φ n k W j = if i = j then columnAbove φ n k W j else 0 := by
    intro j
    by_cases hj : j < k
    · rw [h.workBlock_apply hφ i hj, ite_mul, one_mul, zero_mul]
    · simp [columnAbove, hj]
  rw [Matrix.mulVec, dotProduct, Finset.sum_congr rfl fun j _ => hterm j, Finset.sum_ite_eq, if_pos (Finset.mem_univ i)]

/-- Without a pivot, column `k` is a combination of the unit columns before it. -/
theorem UnitColumns.exists_null_vector (hφ : FieldCode φ) {W : List (List Byte)} {k : Nat} (h : UnitColumns n k W) (hk : k < n)
    (hzero : ∀ i, k ≤ i → i < n → workAt W i k = 0) : ∃ u ≠ 0, (workBlock φ n 0 W).mulVec u = 0 := by
  have hcol : (workBlock φ n 0 W).col ⟨k, hk⟩ = columnAbove φ n k W := by
    ext i
    by_cases hi : i < k
    · simp [workBlock, columnAbove, hi]
    · have hik := hzero i (Nat.le_of_not_lt hi) i.isLt
      rw [columnAbove, if_neg hi, ← hφ.zero, ← hik]
      simp [workBlock]
  refine ⟨columnAbove φ n k W - Pi.single ⟨k, hk⟩ 1, fun hu => ?_, ?_⟩
  · have hk0 := congrFun hu ⟨k, hk⟩
    simp [columnAbove] at hk0
  · rw [Matrix.mulVec_sub, h.mulVec_columnAbove hφ, Matrix.mulVec_single_one, hcol, sub_self]

/-- What the reduced work array says of the matrix it began with: the equations of `[A | I]` are those of both halves. -/
theorem Reduced.mulVec_iff (hφ : FieldCode φ) {A : Matrix} {k : Nat} {V : List (List Byte)} (h : Reduced φ n k (augment A n) V)
    (u v : Fin n → K) :
    (workBlock φ n 0 V).mulVec u + (workBlock φ n n V).mulVec v = 0 ↔ (codeMatrix φ n n A).mulVec u + v = 0 := by
  rw [← rowsVanish_halvesDot, h.rowsVanish_iff, rowsVanish_halvesDot, workBlock_zero_augment, workBlock_augment hφ,
    Matrix.one_mulVec]

/-- R163, R164: on a square matrix `mat_inv` answers the inverse, or Singular for a matrix with a null vector, and nothing else. -/
theorem matInv_cases (hφ : FieldCode φ) {A : Matrix} (hrows : A.rows = n) (hcols : A.cols = n) :
    (∃ f, matInv A = .ok (matOf n n f) ∧ codeMatrix φ n n A * codeMatrix φ n n (matOf n n f) = 1) ∨
    (matInv A = .error .singular ∧ ∃ u ≠ 0, (codeMatrix φ n n A).mulVec u = 0) := by
  have hstart : Reduced φ n 0 (augment A n) (augment A n) := ⟨workShape_augment A n, by simp [UnitColumns], fun _ => Iff.rfl⟩
  rw [matInv, hrows, hcols, if_neg (not_not.mpr rfl), List.range_eq_range']
  obtain ⟨V, hok, hV⟩ | ⟨herr, k, hk, V, hV, hzero⟩ := eliminate_cases hφ (Nat.zero_add n) hstart
  · rw [hok]
    refine .inl ⟨_, rfl, Matrix.mulVec_injective (funext fun v => ?_)⟩
    rw [codeMatrix_matOf, ← Matrix.mulVec_mulVec, Matrix.one_mulVec]
    have hA := (hV.mulVec_iff hφ (-(workBlock φ n n V).mulVec v) v).mp
      (by rw [hV.unitColumns.workBlock_zero hφ, Matrix.one_mulVec, neg_add_cancel])
    rwa [Matrix.mulVec_neg, neg_add_eq_zero] at hA
  · rw [herr]
    obtain ⟨u, hu, hnull⟩ := hV.unitColumns.exists_null_vector hφ hk hzero
    refine .inr ⟨rfl, u, hu, ?_⟩
    have hA := (hV.mulVec_iff hφ u 0).mp (by rw [hnull, Matrix.mulVec_zero, add_zero])
    rwa [add_zero] at hA

end

/-! ### MINV (R170) -/

section
variable {d : Fin 4} {ms : MatSrc} {s : State}

theorem execMinv_of_rows_ne_zero (hne : (s.mat ms).rows ≠ 0) :
    execMinv d ms s = finishMatrix d (matInv (s.mat ms)) s := if_neg (isEmptyMatrix_iff.not.mpr hne)

theorem matInv_of_rows_ne_cols {A : Matrix} (h : A.rows ≠ A.cols) : matInv A = .error .dimensionMismatch := if_pos h

/-- The whole next state of a MINV without a pivot: `FATAL` stays as it was (R170). -/
theorem finishMatrix_singular_eq_next :
    finishMatrix d (.error .singular) s = .next { s with core.status.err := 5 } := rfl

end

/-- Settles O26: on a square matrix the elimination's one condition is Singular. -/
theorem minvWritesMatInvOrRaises : Obligations.MinvWritesMatInvOrRaises := by
  unfold Obligations.MinvWritesMatInvOrRaises
  intro d ms s
  rw [exec_minv]
  refine ⟨fun hfail => ?_, fun hne hsq => ?_⟩
  · simp only [execMinv, isEmptyMatrix_iff]
    split_ifs with hempty
    · exact raise_dimensionMismatch_eq_next s
    · rw [matInv_of_rows_ne_cols (hfail.resolve_left hempty), finishMatrix_error, raise_dimensionMismatch_eq_next]
  · obtain ⟨K, _, φ, hφ⟩ := exists_fieldCode
    rw [execMinv_of_rows_ne_zero hne]
    obtain ⟨f, hok, -⟩ | ⟨herr, -⟩ := matInv_cases hφ rfl hsq.symm
    · exact .inl ⟨_, hok, by rw [hok, finishMatrix_ok_eq_next]⟩
    · exact .inr ⟨herr, by rw [herr, finishMatrix_singular_eq_next]⟩

/-- Settles O27: a right inverse over the field is a left inverse, and excludes a null vector. -/
theorem minvComputesTheInverse : Obligations.MinvComputesTheInverse := by
  unfold Obligations.MinvComputesTheInverse
  intro d ms s n hwf hn hrows hcols
  obtain ⟨K, _, φ, hφ⟩ := exists_fieldCode
  rw [exec_minv, execMinv_of_rows_ne_zero (hrows.trans_ne hn)]
  obtain ⟨f, hok, hmul⟩ | ⟨herr, u, hu, hnull⟩ := matInv_cases hφ hrows hcols
  · have hright : matMul (s.mat ms) (matOf n n f) = .ok (matId n) := (matMul_eq_matId_iff hφ hrows hcols).mpr ⟨rfl, rfl, hmul⟩
    have hleft : matMul (matOf n n f) (s.mat ms) = .ok (matId n) :=
      (matMul_eq_matId_iff hφ rfl rfl).mpr ⟨hrows, hcols, mul_eq_one_comm.mp hmul⟩
    have hdims := (hwf.dims (isEmptyMatrix_iff.not.mpr (hrows.trans_ne hn))).1
    rw [hrows] at hdims
    rw [hok]
    exact ⟨fun _ => ⟨_, matOf_wf f hdims hdims, hright, hleft, finishMatrix_ok_eq_next d s _⟩,
      fun hnone => absurd ⟨_, hright⟩ hnone⟩
  · refine ⟨fun ⟨B, hB⟩ => absurd ?_ hu, fun _ => by rw [herr, finishMatrix_singular_eq_next]⟩
    obtain ⟨-, -, hmul⟩ := (matMul_eq_matId_iff hφ hrows hcols).mp hB
    calc u = (codeMatrix φ n n B * codeMatrix φ n n (s.mat ms)).mulVec u := by rw [mul_eq_one_comm.mp hmul, Matrix.one_mulVec]
      _ = 0 := by rw [← Matrix.mulVec_mulVec, hnull, Matrix.mulVec_zero]

end Sys2Proof.Machine
end

section
/-! SUPPORT and the proofs of O28 to O30. The encoding matrix (R190 to R193): any `k` distinct rows of the base matrix form a
Vandermonde matrix at distinct points, and rows of `E`, multiplied by the top block, are those rows of the base matrix. -/

namespace Sys2Proof.Machine

/-! ### `mat_mul`, `mat_sub` and `mat_inv` over the field (R161 to R163) -/

/-- The square matrix of the listed rows of a matrix value, read as field elements. -/
def codeRows {K : Type} (φ : Byte → K) (n : Nat) (A : Matrix) (L : List Nat) : FieldMatrix n n K :=
  .of fun j c => φ (matAt A (L.getD j 0) c)

/-- A place of a list of row numbers holds a row number. -/
theorem getD_lt_of_forall_mem_lt {L : List Nat} {rows j : Nat} (hrows : ∀ r ∈ L, r < rows) (hj : j < L.length) :
    L.getD j 0 < rows := by
  rw [List.getD_eq_getElem _ _ hj]
  exact hrows _ (List.getElem_mem hj)

section
variable {K : Type} [Field K] {φ : Byte → K} {m n l : Nat} {A B : Matrix} {L : List Nat}

/-- The value of a product, by the product over the field. -/
theorem matMul_eq_ok_matOf_iff (hφ : FieldCode φ) {f : Nat → Nat → Byte} (hArows : A.rows = m) (hAcols : A.cols = l)
    (hBrows : B.rows = l) (hBcols : B.cols = n) :
    matMul A B = .ok (matOf m n f) ↔ codeMatrix φ m l A * codeMatrix φ l n B = codeMatrix φ m n (matOf m n f) := by
  rw [matMul_of_cols_eq (hAcols.trans hBrows.symm), hArows, hAcols, hBcols, Except.ok.injEq, matOf_eq_matOf_iff hφ,
    codeMatrix_product hφ]

omit [Field K] in
theorem exists_matSub (φ : Byte → K) (hcols : A.cols = n) (hlen : L.length = n) (hrows : ∀ r ∈ L, r < A.rows) :
    ∃ S : Matrix, matSub A L = .ok S ∧ S.rows = n ∧ S.cols = n ∧ codeMatrix φ n n S = codeRows φ n A L := by
  subst hcols
  exact ⟨_, matSub_of_rows_lt hlen hrows, rfl, rfl, codeMatrix_matOf _⟩

/-- A matrix whose determinant is not zero has no null vector. -/
theorem exists_matInv_of_det_ne_zero (hφ : FieldCode φ) (hrows : A.rows = n) (hcols : A.cols = n)
    (hdet : (codeMatrix φ n n A).det ≠ 0) :
    ∃ f, matInv A = .ok (matOf n n f) ∧ codeMatrix φ n n A * codeMatrix φ n n (matOf n n f) = 1 :=
  (matInv_cases hφ hrows hcols).resolve_right fun hnull => hdet (Matrix.exists_mulVec_eq_zero_iff.mp hnull.2)

/-- Rows of a product are the rows of its left factor, multiplied. -/
theorem codeRows_mul {T : FieldMatrix n n K} (h : codeMatrix φ m n A * T = codeMatrix φ m n B) (hlen : L.length = n)
    (hrows : ∀ r ∈ L, r < m) : codeRows φ n A L * T = codeRows φ n B L := by
  ext j c
  exact congrFun (congrFun h ⟨_, getD_lt_of_forall_mem_lt hrows (hlen ▸ j.isLt)⟩) c

end

/-! ### The base matrix (R190) -/

theorem matAt_vandermonde {rows cols r c : Nat} (hr : r < rows) (hc : c < cols) :
    matAt (vandermonde rows cols) r c = gfExp (BitVec.ofNat 8 r) c := matAt_matOf _ hr hc

/-- Row numbers below 256 are distinct bytes. -/
theorem byte_ofNat_inj {r r' : Nat} (hr : r < 256) (hr' : r' < 256) (h : BitVec.ofNat 8 r = BitVec.ofNat 8 r') : r = r' := by
  have hnat := congrArg BitVec.toNat h
  rwa [BitVec.toNat_ofNat, BitVec.toNat_ofNat, Nat.mod_eq_of_lt hr, Nat.mod_eq_of_lt hr'] at hnat

section
variable {K : Type} [Field K] {φ : Byte → K} {n rows : Nat} {L : List Nat} (hφ : FieldCode φ)
include hφ

/-- R132's power is the field's. -/
theorem FieldCode.gfExp (a : Byte) (c : Nat) : φ (gfExp a c) = φ a ^ c := by
  induction c with
  | zero => exact hφ.one.trans (pow_zero _).symm
  | succ c ih => rw [gfExp_succ, hφ.mul, ih, pow_succ]

theorem codeRows_vandermonde (hlen : L.length = n) (hrows : ∀ r ∈ L, r < rows) :
    codeRows φ n (vandermonde rows n) L = Matrix.vandermonde fun j => φ (BitVec.ofNat 8 (L.getD j 0)) := by
  ext j c
  rw [codeRows, Matrix.of_apply, matAt_vandermonde (getD_lt_of_forall_mem_lt hrows (hlen ▸ j.isLt)) c.isLt, hφ.gfExp,
    Matrix.vandermonde_apply]

/-- Distinct rows of the base matrix are the powers of distinct points. -/
theorem det_codeRows_vandermonde_ne_zero (hbytes : rows ≤ 256) (hlen : L.length = n) (hnodup : L.Nodup)
    (hrows : ∀ r ∈ L, r < rows) : (codeRows φ n (vandermonde rows n) L).det ≠ 0 := by
  subst hlen
  rw [codeRows_vandermonde hφ rfl hrows, Matrix.det_vandermonde_ne_zero_iff]
  intro i j hij
  have hlt : ∀ j : Fin L.length, L.getD j 0 < 256 := fun j => (getD_lt_of_forall_mem_lt hrows j.isLt).trans_le hbytes
  have hrow : L.getD i 0 = L.getD j 0 := byte_ofNat_inj (hlt i) (hlt j) (hφ.injective hij)
  rw [List.getD_eq_getElem _ _ i.isLt, List.getD_eq_getElem _ _ j.isLt] at hrow
  exact Fin.ext (hnodup.getElem_inj_iff.mp hrow)

end

/-! ### The encoding matrix (R191 to R193) -/

theorem legalConfig_iff {k m : Nat} : legalConfig k m = true ↔ 1 ≤ k ∧ 1 ≤ m ∧ k + m ≤ 256 :=
  ⟨counts_of_legalConfig, fun h => by simpa [legalConfig, and_assoc] using h⟩

section
variable {K : Type} [Field K] {φ : Byte → K} {k m : Nat} {T E : Matrix} {L : List Nat}

/-- `E` is `build_em(k, m)`, and `T` is the top block of the base matrix that R191 inverts for it. -/
structure BuiltFrom (φ : Byte → K) (k m : Nat) (T E : Matrix) : Prop where
  topBlock : matSub (vandermonde (k + m) k) (List.range k) = .ok T
  rows : T.rows = k
  cols : T.cols = k
  code : codeMatrix φ k k T = codeRows φ k (vandermonde (k + m) k) (List.range k)
  det_ne_zero : (codeMatrix φ k k T).det ≠ 0
  built : buildEm k m = .ok E
  mul : codeMatrix φ (k + m) k E * codeMatrix φ k k T = codeMatrix φ (k + m) k (vandermonde (k + m) k)

theorem lt_add_of_mem_range {r : Nat} (hr : r ∈ List.range k) : r < k + m :=
  (List.mem_range.mp hr).trans_le (Nat.le_add_right k m)

/-- R191's construction succeeds: the top block is invertible, and its inverse is multiplied by it again. -/
theorem exists_builtFrom (hφ : FieldCode φ) (hkm : k + m ≤ 256) : ∃ T E, BuiltFrom φ k m T E := by
  obtain ⟨T, hT, hrows, hcols, hcode⟩ := exists_matSub (n := k) (A := vandermonde (k + m) k) φ rfl List.length_range
    fun _ => lt_add_of_mem_range
  have hdet : (codeMatrix φ k k T).det ≠ 0 :=
    hcode ▸ det_codeRows_vandermonde_ne_zero hφ hkm List.length_range List.nodup_range fun _ => lt_add_of_mem_range
  obtain ⟨g, hinv, hmul⟩ := exists_matInv_of_det_ne_zero hφ hrows hcols hdet
  obtain ⟨f, hf⟩ : ∃ f, matMul (vandermonde (k + m) k) (matOf k k g) = .ok (matOf (k + m) k f) := ⟨_, matMul_of_cols_eq rfl⟩
  refine ⟨T, matOf (k + m) k f, hT, hrows, hcols, hcode, hdet, ?_, ?_⟩
  · rw [buildEm, hT]
    simp only [hinv]
    exact hf
  · rw [← (matMul_eq_ok_matOf_iff (m := k + m) (n := k) (l := k) hφ rfl rfl rfl rfl).mp hf, Matrix.mul_assoc,
      mul_eq_one_comm.mp hmul, Matrix.mul_one]

/-- Both sides of `E * T = V` have `T` as their top block, so `E` has the identity (R192). -/
theorem BuiltFrom.codeRows_top (h : BuiltFrom φ k m T E) : codeRows φ k E (List.range k) = 1 := by
  have htop : codeRows φ k E (List.range k) * codeMatrix φ k k T = 1 * codeMatrix φ k k T := by
    rw [codeRows_mul h.mul List.length_range fun _ => lt_add_of_mem_range, ← h.code, one_mul]
  exact ((Matrix.isUnit_iff_isUnit_det _).mpr (isUnit_iff_ne_zero.mpr h.det_ne_zero)).mul_right_cancel htop

theorem BuiltFrom.matAt_top (hφ : FieldCode φ) (h : BuiltFrom φ k m T E) {r c : Nat} (hr : r < k) (hc : c < k) :
    matAt E r c = if r = c then 1 else 0 := by
  refine hφ.injective (Eq.trans ?_ (hφ.ite (r = c)).symm)
  simpa [codeRows, hr, Matrix.one_apply] using congrFun (congrFun h.codeRows_top ⟨r, hr⟩) ⟨c, hc⟩

/-- Rows of `E`, multiplied by the top block, are rows of the base matrix, whose determinant is not zero. -/
theorem BuiltFrom.det_codeRows_ne_zero (hφ : FieldCode φ) (h : BuiltFrom φ k m T E) (hkm : k + m ≤ 256) (hlen : L.length = k)
    (hnodup : L.Nodup) (hrows : ∀ r ∈ L, r < k + m) : (codeRows φ k E L).det ≠ 0 := by
  have hprod : (codeRows φ k E L).det * (codeMatrix φ k k T).det ≠ 0 := by
    rw [← Matrix.det_mul, codeRows_mul h.mul hlen hrows]
    exact det_codeRows_vandermonde_ne_zero hφ hkm hlen hnodup hrows
  exact left_ne_zero_of_mul hprod

end

/-! ### CREATE (R194) -/

section
variable {k m : Nat} {s : State}

theorem exec_create (k m : Nat) (s : State) : exec (.create k m) s = execCreate k m s := rfl

theorem execCreate_of_not_legal (h : ¬legalConfig k m = true) :
    execCreate k m s = .next { s with core.status.err := 1 } := if_pos (by simpa using h)

theorem execCreate_of_legal (h : legalConfig k m = true) {E : Matrix} (hE : buildEm k m = .ok E) :
    execCreate k m s = .next { s with
      core.em := E
      core.cfg := { k := BitVec.ofNat 8 k, m := BitVec.ofNat 8 m, valid := true }
      core.status.err := 0 } := by
  rw [execCreate, h, hE]
  rfl

end

/-- Settles O28: R194's test, then what the construction answered. -/
theorem createInstallsOrRaises : Obligations.CreateInstallsOrRaises := by
  unfold Obligations.CreateInstallsOrRaises
  intro k m s
  rw [exec_create]
  refine ⟨fun hfail => execCreate_of_not_legal ?_, fun hk hm hkm E hE =>
    execCreate_of_legal (legalConfig_iff.mpr ⟨hk, hm, hkm⟩) hE⟩
  rw [legalConfig_iff]
  omega

/-- Settles O29: `E * T = V` says in the first `k` rows that the top block of `E` is the identity. -/
theorem createBuildsSystematicMatrix : Obligations.CreateBuildsSystematicMatrix := by
  unfold Obligations.CreateBuildsSystematicMatrix
  intro k m s hk hm hkm
  have hlegal := legalConfig_iff.mpr ⟨hk, hm, hkm⟩
  obtain ⟨K, _, φ, hφ⟩ := exists_fieldCode
  obtain ⟨T, E, h⟩ := exists_builtFrom hφ hkm
  obtain ⟨f, rfl⟩ := eq_matOf_of_buildEm_ok h.built
  refine ⟨matOf (k + m) k f, _, T, h.built, buildEm_wf hlegal h.built, rfl, rfl, ?_, rfl, ?_, h.topBlock, ?_, ?_⟩
  · exact fun r hr c hc => h.matAt_top hφ hr hc
  · exact fun r hr c hc => (matAt_vandermonde hr hc).trans (gfExp_eq_iterate _ c)
  · exact (matMul_eq_ok_matOf_iff hφ rfl rfl h.rows h.cols).mpr h.mul
  · rw [exec_create, execCreate_of_legal hlegal h.built]

/-- Settles O30: the submatrix exists, and its determinant is not zero. -/
theorem anyKRowsAreInvertible : Obligations.AnyKRowsAreInvertible := by
  unfold Obligations.AnyKRowsAreInvertible
  intro k m E L hk hm hkm hE hlen hnodup hrows
  obtain ⟨K, _, φ, hφ⟩ := exists_fieldCode
  obtain ⟨T, E', h⟩ := exists_builtFrom hφ hkm
  obtain rfl : E' = E := Except.ok.inj (h.built.symm.trans hE)
  obtain ⟨f, rfl⟩ := eq_matOf_of_buildEm_ok hE
  obtain ⟨S, hS, hSrows, hScols, hScode⟩ := exists_matSub (A := matOf (k + m) k f) (n := k) φ rfl hlen hrows
  obtain ⟨g, hinv, -⟩ := exists_matInv_of_det_ne_zero hφ hSrows hScols
    (hScode ▸ h.det_codeRows_ne_zero hφ hkm hlen hnodup hrows)
  exact ⟨S, _, hS, hinv⟩

end Sys2Proof.Machine
end

section
/-! SUPPORT. What a unit leaves in the output windows of a call without overlaps (R257): at one output byte every loop order
performs the same sum, and all its other iterations touch neither that byte nor an input. -/

namespace Sys2Proof.Machine

theorem xorSum_succ (n : Nat) (f : Nat → Byte) : xorSum (n + 1) f = xorSum n f ^^^ f n := by
  rw [xorSum, List.range_succ, List.foldl_append]
  rfl

/-- Both multiplication methods are `gf_mul` (R129). -/
theorem unitMul_eq_gfMul (u : Fin 12) : unitMul u = gfMul := by
  funext a b
  unfold unitMul
  split
  · exact mulT_eq_gfMul a b
  · exact mulX_eq_gfMul a b

/-! ### The iterations at one output byte -/

/-- The output and the byte position that an iteration works on. -/
def stepOutput : LoopStep → Nat × Nat
  | .rmw _ o p => (o, p)
  | .acc o p => (o, p)

/-- A loop whose body is empty but for one value of its variable. -/
theorem flatMap_range_of_unique {α : Type} {n a : Nat} {f : Nat → List α} (ha : a < n) (hf : ∀ x, x ≠ a → f x = []) :
    (List.range n).flatMap f = f a := by
  induction n with
  | zero => omega
  | succ n ih =>
    rw [List.range_succ, List.flatMap_append, List.flatMap_singleton]
    by_cases h : a < n
    · rw [ih h, hf n (by omega), List.append_nil]
    · obtain rfl : a = n := by omega
      rw [List.flatMap_eq_nil_iff.mpr fun x hx => hf x (List.mem_range.mp hx).ne, List.nil_append]

/-- The iterations of a loop nest at one output byte: one that does all inputs, or one for each input, ascending. -/
theorem schedule_filter_output (order : LoopOrder) (nin : Nat) {nout cnt o p : Nat} (ho : o < nout) (hp : p < cnt) :
    (schedule order nin nout cnt).filter (fun st => stepOutput st = (o, p)) = [.acc o p] ∨
    (schedule order nin nout cnt).filter (fun st => stepOutput st = (o, p)) = (List.range nin).map fun i => .rmw i o p := by
  cases order <;> simp only [schedule, List.map_eq_flatMap, List.filter_flatMap]
  case bio =>
    rw [flatMap_range_of_unique hp fun p' h => by simp [stepOutput, h]]
    refine .inr (List.flatMap_congr fun i _ => ?_)
    rw [flatMap_range_of_unique ho fun o' h => by simp [stepOutput, h]]
    simp [stepOutput]
  case boi =>
    rw [flatMap_range_of_unique hp fun p' h => by simp [stepOutput, h],
      flatMap_range_of_unique ho fun o' h => by simp [stepOutput, h]]
    simp [stepOutput]
  case ibo =>
    refine .inr (List.flatMap_congr fun i _ => ?_)
    rw [flatMap_range_of_unique hp fun p' h => by simp [stepOutput, h],
      flatMap_range_of_unique ho fun o' h => by simp [stepOutput, h]]
    simp [stepOutput]
  case iob =>
    refine .inr (List.flatMap_congr fun i _ => ?_)
    rw [flatMap_range_of_unique ho fun o' h => by simp [stepOutput, h],
      flatMap_range_of_unique hp fun p' h => by simp [stepOutput, h]]
    simp [stepOutput]
  case obi =>
    rw [flatMap_range_of_unique ho fun o' h => by simp [stepOutput, h],
      flatMap_range_of_unique hp fun p' h => by simp [stepOutput, h]]
    simp [stepOutput]
  case oib =>
    rw [flatMap_range_of_unique ho fun o' h => by simp [stepOutput, h]]
    refine .inr (List.flatMap_congr fun i _ => ?_)
    rw [flatMap_range_of_unique hp fun p' h => by simp [stepOutput, h]]
    simp [stepOutput]

/-- The byte that an iteration leaves in its output, by the inputs in `mem` and the byte that was there (R243, R244). -/
def stepByte (mul : Byte → Byte → Byte) (c : CodeCall) (mem : Memory) (old : Byte) : LoopStep → Byte
  | .rmw i o p =>
    if i = 0 then mul (coeff c o i) (mem.read (inAddr c i p)) else old ^^^ mul (coeff c o i) (mem.read (inAddr c i p))
  | .acc o p => xorSum c.ins.length fun i => mul (coeff c o i) (mem.read (inAddr c i p))

theorem runStep_eq_write_stepByte (mul : Byte → Byte → Byte) (c : CodeCall) (mem : Memory) (st : LoopStep) :
    runStep mul c mem st = mem.write (stepTarget c st) (stepByte mul c mem (mem.read (stepTarget c st)) st) := by
  cases st with
  | rmw i o p =>
    simp only [runStep, stepRmw, stepByte, stepTarget]
    split <;> rfl
  | acc o p => rfl

/-- An iteration of a call reads no input beyond the call's windows. -/
theorem stepByte_congr (mul : Byte → Byte → Byte) {c : CodeCall} {order : LoopOrder} {st : LoopStep}
    (hst : st ∈ schedule order c.ins.length c.outs.length c.cnt) {m m' : Memory}
    (h : ∀ i < c.ins.length, ∀ p < c.cnt, m.read (inAddr c i p) = m'.read (inAddr c i p)) (old : Byte) :
    stepByte mul c m old st = stepByte mul c m' old st := by
  obtain ⟨o, p, -, hp, rfl | ⟨i, hi, rfl⟩⟩ := schedule_range hst
  · exact xorSum_congr fun i hi => by rw [h i hi p hp]
  · rw [stepByte, stepByte, h i hi p hp]

/-- Adding input after input leaves the sum over all inputs: input 0 replaces the old byte (R243). -/
theorem foldl_stepByte_rmw (mul : Byte → Byte → Byte) (c : CodeCall) (mem : Memory) (o p n : Nat) (old : Byte) :
    ((List.range (n + 1)).map fun i => LoopStep.rmw i o p).foldl (stepByte mul c mem) old =
      xorSum (n + 1) fun i => mul (coeff c o i) (mem.read (inAddr c i p)) := by
  induction n with
  | zero => exact (BitVec.zero_xor (w := 8)).symm
  | succ n ih =>
    rw [List.range_succ, List.map_append, List.foldl_append, ih, xorSum_succ (n + 1)]
    rfl

/-- In every loop order the iterations at an output byte leave the sum over all inputs there. -/
theorem foldl_stepByte_schedule (mul : Byte → Byte → Byte) {c : CodeCall} (mem : Memory) (order : LoopOrder) {o p : Nat}
    (old : Byte) (hin : 1 ≤ c.ins.length) (ho : o < c.outs.length) (hp : p < c.cnt) :
    ((schedule order c.ins.length c.outs.length c.cnt).filter fun st => stepOutput st = (o, p)).foldl (stepByte mul c mem) old =
      xorSum c.ins.length fun i => mul (coeff c o i) (mem.read (inAddr c i p)) := by
  obtain h | h := schedule_filter_output order c.ins.length ho hp
  · rw [h]
    rfl
  · rw [h]
    obtain ⟨n, hn⟩ := Nat.exists_eq_add_of_le' hin
    rw [hn]
    exact foldl_stepByte_rmw mul c mem o p n old

/-! ### Calls without overlaps (R257) -/

theorem windowsDisjoint_iff {a b cnt : Nat} : windowsDisjoint a b cnt = true ↔ a + cnt ≤ b ∨ b + cnt ≤ a ∨ cnt = 0 := by
  simp [windowsDisjoint, or_assoc]

theorem nonOverlapping_iff {c : CodeCall} :
    nonOverlapping c = true ↔ (∀ a ∈ c.outs, ∀ b ∈ c.ins, windowsDisjoint a b c.cnt = true) ∧
      ∀ o < c.outs.length, ∀ o' < c.outs.length,
        o = o' ∨ windowsDisjoint (c.outs.getD o 0) (c.outs.getD o' 0) c.cnt = true := by
  simp [nonOverlapping]

section
variable {c : CodeCall} (hno : nonOverlapping c = true)
include hno

theorem inAddr_ne_outAddr {i o p q : Nat} (hi : i < c.ins.length) (ho : o < c.outs.length) (hp : p < c.cnt) (hq : q < c.cnt) :
    inAddr c i p ≠ outAddr c o q := by
  have h := windowsDisjoint_iff.mp ((nonOverlapping_iff.mp hno).1 _ (List.getElem_mem ho) _ (List.getElem_mem hi))
  rw [inAddr, outAddr, List.getD_eq_getElem _ _ hi, List.getD_eq_getElem _ _ ho]
  omega

theorem outAddr_inj {o o' p p' : Nat} (ho : o < c.outs.length) (ho' : o' < c.outs.length) (hp : p < c.cnt) (hp' : p' < c.cnt)
    (h : outAddr c o p = outAddr c o' p') : (o, p) = (o', p') := by
  unfold outAddr at h
  obtain rfl | hdis := (nonOverlapping_iff.mp hno).2 o ho o' ho'
  · rw [Prod.mk.injEq]
    omega
  · have := windowsDisjoint_iff.mp hdis
    omega

/-- What a sequence of iterations leaves in an output byte: what those at that byte make of it, from the inputs as they were. -/
theorem runSteps_read_outAddr (hmem : c.OutputsInMemory) (mul : Byte → Byte → Byte) {order : LoopOrder} {sts : List LoopStep}
    (hsts : ∀ st ∈ sts, st ∈ schedule order c.ins.length c.outs.length c.cnt) {m₀ mem : Memory} (hm : mem.wf)
    (hins : ∀ i < c.ins.length, ∀ p < c.cnt, mem.read (inAddr c i p) = m₀.read (inAddr c i p)) {o p : Nat}
    (ho : o < c.outs.length) (hp : p < c.cnt) :
    (sts.foldl (runStep mul c) mem).read (outAddr c o p) =
      (sts.filter fun st => stepOutput st = (o, p)).foldl (stepByte mul c m₀) (mem.read (outAddr c o p)) := by
  induction sts generalizing mem with
  | nil => rfl
  | cons st rest ih =>
    obtain ⟨hst, hrest⟩ := List.forall_mem_cons.mp hsts
    obtain ⟨o', p', ho', hp', htarget, hout⟩ : ∃ o' p', o' < c.outs.length ∧ p' < c.cnt ∧
        stepTarget c st = outAddr c o' p' ∧ stepOutput st = (o', p') := by
      obtain ⟨o', p', ho', hp', rfl | ⟨i, -, rfl⟩⟩ := schedule_range hst <;> exact ⟨o', p', ho', hp', rfl, rfl⟩
    rw [List.foldl_cons, runStep_eq_write_stepByte, stepByte_congr mul hst hins, htarget,
      ih hrest (Memory.write_wf hm (hmem.outAddr_lt ho' hp') _) fun i hi q hq => ?_, List.filter_cons, hout]
    · by_cases heq : (o', p') = (o, p)
      · obtain ⟨rfl, rfl⟩ := Prod.mk.inj heq
        rw [Memory.read_write_same hm, if_pos (decide_eq_true rfl), List.foldl_cons]
      · rw [Memory.read_write_of_ne _ _ fun h => heq (outAddr_inj hno ho' ho hp' hp h.symm), if_neg (by simpa using heq)]
    · rw [Memory.read_write_of_ne _ _ (inAddr_ne_outAddr hno hi ho' hq hp'), hins i hi q hq]

/-- R257: every unit leaves the coded byte in every output byte. -/
theorem runCode_read_outAddr (hmem : c.OutputsInMemory) (hin : 1 ≤ c.ins.length) (u : Fin 12) {mem : Memory} (hm : mem.wf)
    {o p : Nat} (ho : o < c.outs.length) (hp : p < c.cnt) : (runCode u c mem).read (outAddr c o p) = coded c mem o p := by
  rw [runCode, runSteps_read_outAddr hno hmem _ (fun _ h => h) hm (fun _ _ _ _ => rfl) ho hp,
    foldl_stepByte_schedule _ _ _ _ hin ho hp, unitMul_eq_gfMul]
  rfl

end

end Sys2Proof.Machine
end

section
/-! SUPPORT and the proofs of O31, O33 and O57. The checks that the codec commands share (R210), calls on the windows of shards
read column by column, and VERIFY (R212, R218). -/

namespace Sys2Proof.Machine

/-! ### The checks (R210) -/

theorem exec_encode (s : State) : exec .encode s = execEncode s := rfl

theorem exec_verify (s : State) : exec .verify s = execVerify s := rfl

theorem exec_decode (s : State) : exec .decode s = execDecode s := rfl

theorem codecCheck_of_ready {s : State} (h : CodecReady s) : codecCheck s = none := codecCheck_eq_none.mpr h

/-- All three commands raise what the checks found, and its raise is never fatal. -/
theorem exec_of_codecCheck {i : Instr} {s : State} {c : Condition} (hi : i = .encode ∨ i = .verify ∨ i = .decode)
    (h : codecCheck s = some c) : exec i s = .next { s with core.status.err := conditionCode c } := by
  have hraise : ∀ b, raise b c s = .next { s with core.status.err := conditionCode c } := fun b => by
    have hne : c ≠ .singular := by rcases codecCheck_eq_some h with ⟨-, rfl⟩ | ⟨-, rfl⟩ <;> decide
    rw [raise_eq_next, raised_of_ne_singular b hne]
    rfl
  obtain rfl | rfl | rfl := hi
  · rw [exec_encode, execEncode, h]
    exact hraise false
  · rw [exec_verify, execVerify, h]
    exact hraise false
  · rw [exec_decode, execDecode, h]
    exact hraise true

/-- Settles O31: a check that fails is one of those whose condition R210 names. -/
theorem codecCommandsShareChecks : Obligations.CodecCommandsShareChecks := by
  unfold Obligations.CodecCommandsShareChecks
  intro i s hi
  refine ⟨fun hvalid => ?_, fun hvalid hfail => ?_⟩
  · cases hcheck : codecCheck s with
    | none =>
      obtain ⟨hv, -⟩ := codecCheck_eq_none.mp hcheck
      simp [hvalid] at hv
    | some c =>
      obtain ⟨-, rfl⟩ | ⟨hv, -⟩ := codecCheck_eq_some hcheck
      · exact exec_of_codecCheck hi hcheck
      · simp [hvalid] at hv
  · cases hcheck : codecCheck s with
    | none =>
      obtain ⟨-, hlen, hwindow, hspace⟩ := codecCheck_eq_none.mp hcheck
      obtain ⟨j, hj, hne⟩ | hlong | ⟨j, hj, hhigh⟩ := hfail
      · exact absurd (hlen j hj) hne
      · omega
      · exact absurd (hspace j hj) (Nat.not_le.mpr hhigh)
    | some c =>
      obtain ⟨hv, -⟩ | ⟨-, rfl⟩ := codecCheck_eq_some hcheck
      · simp [hvalid] at hv
      · exact exec_of_codecCheck hi hcheck

/-! ### Windows of shards, column by column -/

/-- Byte `q` of every shard's window. Entries beyond the last shard are 0, so that equal shard bytes are equal columns. -/
def column (s : State) (mem : Memory) (q : Nat) : Nat → Byte := fun i =>
  if i < s.shardCount then mem.read (s.shBase i + s.offset + q) else 0

/-- The sum of a column's bytes at the indices `is`, weighted by row `j` of `A`. -/
def weightedSum (A : Matrix) (is : List Nat) (x : Nat → Byte) (j : Nat) : Byte :=
  xorSum is.length fun i => gfMul (matAt A j i) (x (is.getD i 0))

/-- The call with the shards `is` as inputs and the shards `os` as outputs, each by its own row of `A`, over `len` bytes from
byte `lo` of the window on. -/
def windowCall (s : State) (A : Matrix) (is os : List Nat) (lo len : Nat) : CodeCall :=
  { mx := A, rows := os, ins := is.map s.shBase, outs := os.map s.shBase, off := s.offset + lo, cnt := len }

section
variable {s : State} {A : Matrix} {is os : List Nat} {lo len : Nat}

theorem column_of_lt (mem : Memory) (q : Nat) {i : Nat} (hi : i < s.shardCount) :
    column s mem q i = mem.read (s.shBase i + s.offset + q) := if_pos hi

theorem column_congr {t : State} {m m' : Memory} {q q' : Nat} (hcount : t.shardCount = s.shardCount)
    (h : ∀ i < s.shardCount, m'.read (t.shBase i + t.offset + q') = m.read (s.shBase i + s.offset + q)) :
    column t m' q' = column s m q := by
  funext i
  unfold column
  rw [hcount]
  split
  next hi => exact h i hi
  · rfl

theorem dataCount_le_shardCount (s : State) : s.dataCount ≤ s.shardCount := Nat.le_add_right _ _

theorem mem_parityIndices {j : Nat} : j ∈ parityIndices s ↔ s.dataCount ≤ j ∧ j < s.shardCount := mem_drop_range

/-- The sum over the data shards, as the rules write it. -/
theorem weightedSum_column_data (mem : Memory) (q j : Nat) :
    weightedSum A (List.range s.dataCount) (column s mem q) j =
      xorSum s.dataCount fun i => gfMul (matAt A j i) (mem.read (s.shBase i + s.offset + q)) := by
  rw [weightedSum, List.length_range]
  refine xorSum_congr fun i hi => ?_
  rw [List.getD_eq_getElem _ _ (by simpa using hi), List.getElem_range,
    column_of_lt _ _ (hi.trans_le (dataCount_le_shardCount s))]

theorem outAddr_windowCall {o : Nat} (ho : o < os.length) (p : Nat) :
    outAddr (windowCall s A is os lo len) o p = s.shBase os[o] + s.offset + (lo + p) := by
  simp only [outAddr, windowCall]
  rw [List.getD_eq_getElem _ _ (by simpa using ho), List.getElem_map]
  omega

theorem coded_windowCall (his : ∀ i ∈ is, i < s.shardCount) (mem : Memory) {o : Nat} (ho : o < os.length) (p : Nat) :
    coded (windowCall s A is os lo len) mem o p = weightedSum A is (column s mem (lo + p)) os[o] := by
  simp only [coded, windowCall, List.length_map, weightedSum]
  refine xorSum_congr fun i hi => ?_
  rw [column_of_lt _ _ (getD_lt_of_forall_mem_lt his hi), coeff, inAddr]
  simp only [List.getD_eq_getElem _ _ ho, List.getD_eq_getElem _ _ hi,
    List.getD_eq_getElem (is.map s.shBase) _ (by simpa using hi), List.getElem_map]
  congr 2
  omega

theorem parityCall_eq (s : State) :
    parityCall s = windowCall s s.core.em (List.range s.dataCount) (parityIndices s) 0 s.count := rfl

theorem mem_range_data_lt {i : Nat} (h : i ∈ List.range s.dataCount) : i < s.shardCount :=
  (List.mem_range.mp h).trans_le (dataCount_le_shardCount s)

end

/-! ### VERIFY (R212) -/

theorem exec_verify_of_ready {s : State} (h : CodecReady s) :
    exec .verify s = .next { s with
      core.status.matched := runCheck s.core.strat (parityCall s) s.mem
      core.status.err := 0 } := by
  rw [exec_verify, execVerify, codecCheck_of_ready h]
  rfl

/-- Every parity entry of a column is the weighted sum of its data entries (R212). -/
def ParityColumn (s : State) (x : Nat → Byte) : Prop :=
  ∀ j, s.dataCount ≤ j → j < s.shardCount → x j = weightedSum s.core.em (List.range s.dataCount) x j

theorem parityColumn_column {s : State} {mem : Memory} {p : Nat} : ParityColumn s (column s mem p) ↔
    ∀ j, s.dataCount ≤ j → j < s.shardCount → mem.read (s.shBase j + s.offset + p) =
      xorSum s.dataCount fun i => gfMul (matAt s.core.em j i) (mem.read (s.shBase i + s.offset + p)) :=
  forall₃_congr fun _ _ hj => by rw [column_of_lt _ _ hj, weightedSum_column_data]

/-- R258's formula on shards: every column of the window is right. -/
theorem runCheck_parityCall (u : Fin 12) (s : State) (mem : Memory) :
    runCheck u (parityCall s) mem = true ↔ ∀ p < s.count, ParityColumn s (column s mem p) := by
  have hbyte : ∀ o (ho : o < (parityIndices s).length), ∀ p,
      (coded (parityCall s) mem o p = mem.read (outAddr (parityCall s) o p)) ↔
      column s mem p (parityIndices s)[o] =
        weightedSum s.core.em (List.range s.dataCount) (column s mem p) (parityIndices s)[o] := fun o ho p => by
    rw [parityCall_eq, coded_windowCall (fun _ => mem_range_data_lt) mem ho, outAddr_windowCall ho, Nat.zero_add,
      ← column_of_lt _ _ (mem_parityIndices_lt (List.getElem_mem ho)), eq_comm]
  have hlen : (parityCall s).outs.length = (parityIndices s).length := List.length_map _
  simp only [runCheck, List.all_eq_true, List.mem_range, beq_iff_eq, hlen]
  constructor
  · intro h p hp j hkj hj
    obtain ⟨o, ho, rfl⟩ := List.mem_iff_getElem.mp (mem_parityIndices.mpr ⟨hkj, hj⟩)
    exact (hbyte o ho p).mp (h o ho p hp)
  · intro h o ho p hp
    obtain ⟨hkj, hj⟩ := mem_parityIndices.mp (List.getElem_mem ho)
    exact (hbyte o ho p).mpr (h p hp _ hkj hj)

/-- VERIFY sets `MATCH` to whether every column is right. -/
theorem exec_verify_of_iff {s : State} (h : CodecReady s) {b : Bool}
    (hb : b = true ↔ ∀ p < s.count, ParityColumn s (column s s.mem p)) :
    exec .verify s = .next { s with core.status.matched := b, core.status.err := 0 } := by
  rw [exec_verify_of_ready h, Bool.eq_iff_iff.mpr (hb.trans (runCheck_parityCall s.core.strat s s.mem).symm)]

/-- Settles O33: the formula of the check, byte by byte. -/
theorem verifyComparesParity : Obligations.VerifyComparesParity := by
  unfold Obligations.VerifyComparesParity
  intro s hready
  refine ⟨_, exec_verify_of_ready hready, (runCheck_parityCall ..).trans ?_⟩
  simp only [parityColumn_column]
  exact ⟨fun h j hkj hj p hp => h p hp j hkj hj, fun h p hp j hkj hj => h j hkj hj p hp⟩

/-! ### Windows in two parts (R218) -/

section
variable {s : State} {c₁ c₂ : Word} (hready : CodecReady s) (hsum : c₁.toNat + c₂.toNat = s.core.cnt.toNat)
include hready hsum

/-- The second part begins inside a shard, so below `2^32`. -/
theorem toNat_off_add : (s.core.off + c₁).toNat = s.offset + c₁.toNat := by
  obtain ⟨-, -, hwindow, -⟩ := hready
  have hlt : s.shLen 0 < 2 ^ 32 := BitVec.isLt _
  rw [BitVec.toNat_add]
  unfold State.offset State.count at *
  omega

/-- Byte `q` of the second part is byte `c₁ + q` of the whole. -/
theorem column_second (mem : Memory) (q : Nat) :
    column { s with core.off := s.core.off + c₁, core.cnt := c₂ } mem q = column s mem (c₁.toNat + q) := by
  refine column_congr rfl fun i _ => ?_
  show mem.read (s.shBase i + (s.core.off + c₁).toNat + q) = _
  rw [toNat_off_add hready hsum]
  congr 1
  omega

theorem CodecReady.firstPart : CodecReady { s with core.cnt := c₁ } := by
  obtain ⟨hvalid, hlen, hwindow, hspace⟩ := hready
  refine ⟨hvalid, hlen, ?_, hspace⟩
  show s.offset + c₁.toNat ≤ s.shLen 0
  unfold State.count at hwindow
  omega

theorem CodecReady.secondPart : CodecReady { s with core.off := s.core.off + c₁, core.cnt := c₂ } := by
  have hoff := toNat_off_add hready hsum
  obtain ⟨hvalid, hlen, hwindow, hspace⟩ := hready
  refine ⟨hvalid, hlen, ?_, hspace⟩
  show (s.core.off + c₁).toNat + c₂.toNat ≤ s.shLen 0
  unfold State.count at hwindow
  omega

end

/-- Settles O57: a byte position of the whole window is one of the first part or one of the second. -/
theorem verifyWindowsAreConjoined : Obligations.VerifyWindowsAreConjoined := by
  unfold Obligations.VerifyWindowsAreConjoined
  intro s c₁ c₂ hready hsum
  refine ⟨_, _, exec_verify_of_ready (hready.firstPart hsum), exec_verify_of_ready (hready.secondPart hsum),
    exec_verify_of_iff hready ?_⟩
  have hcount : s.count = c₁.toNat + c₂.toNat := hsum.symm
  rw [Bool.and_eq_true, runCheck_parityCall, runCheck_parityCall, hcount, forall_lt_add_iff_lt_left]
  refine and_congr Iff.rfl (forall₂_congr fun q _ => ?_)
  rw [column_second hready hsum]
  rfl

end Sys2Proof.Machine
end

section
/-! SUPPORT and the proofs of O32, O36 and O38. A run over shards without overlaps maps each column of the window by itself
(R257): ENCODE (R211), what VERIFY says after it (R216), and windows in two parts (R218). -/

namespace Sys2Proof.Machine

/-! ### Columns mapped one by one -/

/-- The column with the entries at `os` replaced by weighted sums of those at `is`. -/
def recode (A : Matrix) (is os : List Nat) (x : Nat → Byte) : Nat → Byte := fun j =>
  if j ∈ os then weightedSum A is x j else x j

/-- From `m` to `m'` the `len` columns from `lo` on are mapped by `F`, and no other byte changes. -/
structure MapsColumns (s : State) (lo len : Nat) (F : (Nat → Byte) → Nat → Byte) (m m' : Memory) : Prop where
  wf : m'.wf
  inside : ∀ q, lo ≤ q → q < lo + len → column s m' q = F (column s m q)
  outside : ∀ q < s.count, q < lo ∨ lo + len ≤ q → column s m' q = column s m q
  elsewhere : ∀ a, (∀ i < s.shardCount, ∀ q < s.count, a ≠ s.shBase i + s.offset + q) → m'.read a = m.read a

section
variable {A : Matrix} {is os : List Nat} {x y : Nat → Byte} {j : Nat}

theorem recode_of_mem (h : j ∈ os) : recode A is os x j = weightedSum A is x j := if_pos h

theorem recode_of_not_mem (h : j ∉ os) : recode A is os x j = x j := if_neg h

theorem weightedSum_congr (h : ∀ i ∈ is, x i = y i) : weightedSum A is x j = weightedSum A is y j :=
  xorSum_congr fun i hi => by
    rw [List.getD_eq_getElem _ _ hi, h _ (List.getElem_mem hi)]

end

section
variable {s : State} {lo len : Nat} {F G : (Nat → Byte) → Nat → Byte} {m m₁ m₂ : Memory}

theorem MapsColumns.comp (h₁ : MapsColumns s lo len F m m₁) (h₂ : MapsColumns s lo len G m₁ m₂) :
    MapsColumns s lo len (G ∘ F) m m₂ where
  wf := h₂.wf
  inside q hlo hhi := by rw [h₂.inside q hlo hhi, h₁.inside q hlo hhi, Function.comp_apply]
  outside q hq hout := by rw [h₂.outside q hq hout, h₁.outside q hq hout]
  elsewhere a ha := by rw [h₂.elsewhere a ha, h₁.elsewhere a ha]

/-- The first part of the window, then the second. -/
theorem MapsColumns.append {c₁ c₂ : Nat} (h₁ : MapsColumns s 0 c₁ F m m₁) (h₂ : MapsColumns s c₁ c₂ F m₁ m₂)
    (hsum : c₁ + c₂ = s.count) : MapsColumns s 0 s.count F m m₂ where
  wf := h₂.wf
  inside q _ hq := by
    obtain hlt | hge := Nat.lt_or_ge q c₁
    · rw [h₂.outside q (by omega) (.inl hlt), h₁.inside q (Nat.zero_le q) (by omega)]
    · rw [h₂.inside q hge (by omega), h₁.outside q (by omega) (.inr (by omega))]
  outside q hq hout := by omega
  elsewhere a ha := by rw [h₂.elsewhere a ha, h₁.elsewhere a ha]

/-- A byte of memory is one of a column or elsewhere, so the columns determine the memory. -/
theorem MapsColumns.unique (h₁ : MapsColumns s 0 s.count F m m₁) (h₂ : MapsColumns s 0 s.count F m m₂) : m₁ = m₂ := by
  refine Memory.ext_of_read h₁.wf h₂.wf fun a => ?_
  by_cases ha : ∃ i < s.shardCount, ∃ q < s.count, a = s.shBase i + s.offset + q
  · obtain ⟨i, hi, q, hq, rfl⟩ := ha
    rw [← column_of_lt m₁ q hi, ← column_of_lt m₂ q hi, h₁.inside q (Nat.zero_le q) (by omega),
      h₂.inside q (Nat.zero_le q) (by omega)]
  · have hne : ∀ i < s.shardCount, ∀ q < s.count, a ≠ s.shBase i + s.offset + q :=
      fun i hi q hq heq => ha ⟨i, hi, q, hq, heq⟩
    rw [h₁.elsewhere a hne, h₂.elsewhere a hne]

end

/-! ### Runs over shards -/

/-- The shards `is` can be coded into the shards `os`: none of `os` is among `is` or shares a byte of its window with another. -/
structure CodingStep (s : State) (is os : List Nat) : Prop where
  nonempty : 1 ≤ is.length
  ins_lt : ∀ i ∈ is, i < s.shardCount
  outs_lt : ∀ j ∈ os, j < s.shardCount
  disjoint : ∀ j ∈ os, j ∉ is
  nodup : os.Nodup
  apart : ∀ j ∈ os, ∀ i < s.shardCount, i ≠ j → shardsApart s j i = true

theorem windowsDisjoint_mono {a b cnt len : Nat} (h : windowsDisjoint a b cnt = true) (hlen : len ≤ cnt) :
    windowsDisjoint a b len = true := by
  rw [windowsDisjoint_iff] at *
  omega

/-- Windows that share no byte have different addresses. -/
theorem windowAddr_ne {s : State} {i j p q : Nat} (h : shardsApart s j i = true) (hp : p < s.count) (hq : q < s.count) :
    s.shBase i + s.offset + p ≠ s.shBase j + s.offset + q := by
  have := windowsDisjoint_iff.mp h
  omega

section
variable {s : State} {A : Matrix} {is os : List Nat} {lo len : Nat}

theorem nonOverlapping_windowCall (h : CodingStep s is os) (hlen : lo + len ≤ s.count) :
    nonOverlapping (windowCall s A is os lo len) = true := by
  have hcnt : len ≤ s.count := by omega
  refine nonOverlapping_iff.mpr ⟨fun a ha b hb => ?_, fun o ho o' ho' => ?_⟩
  · obtain ⟨j, hj, rfl⟩ := List.mem_map.mp ha
    obtain ⟨i, hi, rfl⟩ := List.mem_map.mp hb
    exact windowsDisjoint_mono (h.apart j hj i (h.ins_lt i hi) fun hij => h.disjoint j hj (hij ▸ hi)) hcnt
  · rw [List.getD_eq_getElem _ _ ho, List.getD_eq_getElem _ _ ho']
    simp only [windowCall, List.length_map, List.getElem_map] at ho ho' ⊢
    refine or_iff_not_imp_left.mpr fun hne => windowsDisjoint_mono ?_ hcnt
    exact h.apart _ (List.getElem_mem ho) _ (h.outs_lt _ (List.getElem_mem ho')) 
      (h.nodup.getElem_inj_iff.not.mpr (Ne.symm hne))

theorem windowCall_inMemory (hready : CodecReady s) (hos : ∀ j ∈ os, j < s.shardCount) (hlen : lo + len ≤ s.count) :
    (windowCall s A is os lo len).OutputsInMemory := by
  obtain ⟨-, -, hwindow, hspace⟩ := hready
  intro b hb
  obtain ⟨j, hj, rfl⟩ := List.mem_map.mp hb
  have := hspace j (hos j hj)
  simp only [windowCall]
  omega

/-- A byte that is no output byte of the call stays. -/
theorem runCode_windowCall_read_of_ne (u : Fin 12) (m : Memory) {a : Nat}
    (h : ∀ j ∈ os, ∀ p < len, a ≠ s.shBase j + s.offset + (lo + p)) :
    (runCode u (windowCall s A is os lo len) m).read a = m.read a := by
  refine runCode_read_outside _ _ _ fun o p ho hp => ?_
  have ho : o < os.length := by simpa [windowCall] using ho
  rw [outAddr_windowCall ho]
  exact (h _ (List.getElem_mem ho) p hp).symm

/-- An output byte of the call receives the weighted sum over its column. -/
theorem runCode_windowCall_read_output (h : CodingStep s is os) (hready : CodecReady s) (hlen : lo + len ≤ s.count) (u : Fin 12)
    {m : Memory} (hm : m.wf) {j : Nat} (hj : j ∈ os) {p : Nat} (hp : p < len) :
    (runCode u (windowCall s A is os lo len) m).read (s.shBase j + s.offset + (lo + p)) =
      weightedSum A is (column s m (lo + p)) j := by
  obtain ⟨o, ho, rfl⟩ := List.mem_iff_getElem.mp hj
  rw [← outAddr_windowCall ho, runCode_read_outAddr (nonOverlapping_windowCall h hlen)
    (windowCall_inMemory hready h.outs_lt hlen) (by simpa [windowCall] using h.nonempty) u hm (by simpa [windowCall] using ho) hp,
    coded_windowCall h.ins_lt m ho]

theorem mapsColumns_runCode (h : CodingStep s is os) (hready : CodecReady s) (hlen : lo + len ≤ s.count) (u : Fin 12)
    {m : Memory} (hm : m.wf) :
    MapsColumns s lo len (recode A is os) m (runCode u (windowCall s A is os lo len) m) where
  wf := (windowCall_inMemory hready h.outs_lt hlen).runCode_wf u hm
  inside q hlo hhi := by
    obtain ⟨p, rfl⟩ := Nat.exists_eq_add_of_le hlo
    funext i
    by_cases hi : i ∈ os
    · rw [column_of_lt _ _ (h.outs_lt i hi), recode_of_mem hi,
        runCode_windowCall_read_output h hready hlen u hm hi (by omega)]
    · rw [recode_of_not_mem hi]
      unfold column
      split
      next hin =>
        exact runCode_windowCall_read_of_ne u m fun j hj p' hp' =>
          windowAddr_ne (h.apart j hj i hin fun hij => hi (hij ▸ hj)) (by omega) (by omega)
      · rfl
  outside q hq hout := by
    refine column_congr rfl fun i hi => runCode_windowCall_read_of_ne u m fun j hj p hp => ?_
    by_cases hij : i = j
    · subst hij
      omega
    · exact windowAddr_ne (h.apart j hj i hi hij) hq (by omega)
  elsewhere a ha := runCode_windowCall_read_of_ne u m fun j hj p hp => ha j (h.outs_lt j hj) (lo + p) (by omega)

end

/-! ### ENCODE (R211) -/

/-- What the invariant says of the codec that R210's checks ask for (R26, R38). -/
theorem Inv.codec_of_ready {s : State} (h : Inv s) (hready : CodecReady s) :
    (1 ≤ s.dataCount ∧ s.shardCount ≤ 256) ∧ buildEm s.core.cfg.k.toNat s.core.cfg.m.toNat = .ok s.core.em := by
  obtain ⟨hlegal, hem⟩ := h.core.codec.1 hready.1
  obtain ⟨hk, -, hkm⟩ := counts_of_legalConfig hlegal
  exact ⟨⟨hk, hkm⟩, hem⟩

/-- The encoding matrix of such a codec, with the top block that R191 inverted for it. -/
theorem Inv.builtFrom_of_ready {K : Type} [Field K] {φ : Byte → K} (hφ : FieldCode φ) {s : State} (h : Inv s)
    (hready : CodecReady s) : ∃ T, BuiltFrom φ s.core.cfg.k.toNat s.core.cfg.m.toNat T s.core.em := by
  obtain ⟨⟨-, hn⟩, hem⟩ := h.codec_of_ready hready
  obtain ⟨T, E, hbuilt⟩ := exists_builtFrom hφ hn
  exact ⟨T, Except.ok.inj (hbuilt.built.symm.trans hem) ▸ hbuilt⟩

/-- ENCODE on a column: the parity entries from the data entries. -/
def encodeColumn (s : State) : (Nat → Byte) → Nat → Byte :=
  recode s.core.em (List.range s.dataCount) (parityIndices s)

theorem overlapFree_encode_iff {s : State} :
    overlapFree .encode s = true ↔ ∀ j ∈ parityIndices s, ∀ i < s.shardCount, i ≠ j → shardsApart s j i = true := by
  simp [overlapFree, or_iff_not_imp_left]

theorem exec_encode_of_ready {s : State} (h : CodecReady s) :
    exec .encode s = .next { s with mem := runCode s.core.strat (parityCall s) s.mem, core.status.err := 0 } := by
  rw [exec_encode, execEncode, codecCheck_of_ready h]
  rfl

section
variable {s : State} (hk : 1 ≤ s.dataCount) (hapart : overlapFree .encode s = true)
include hk hapart

theorem codingStep_encode : CodingStep s (List.range s.dataCount) (parityIndices s) where
  nonempty := by simpa using hk
  ins_lt _ := mem_range_data_lt
  outs_lt _ := mem_parityIndices_lt
  disjoint j hj hdata := by
    have := (mem_parityIndices.mp hj).1
    have := List.mem_range.mp hdata
    omega
  nodup := List.nodup_range.sublist (List.drop_sublist _ _)
  apart := overlapFree_encode_iff.mp hapart

theorem mapsColumns_encode (hready : CodecReady s) (u : Fin 12) {m : Memory} (hm : m.wf) :
    MapsColumns s 0 s.count (encodeColumn s) m (runCode u (parityCall s) m) :=
  mapsColumns_runCode (codingStep_encode hk hapart) hready (by omega) u hm

end

/-- Settles O32: the parity entries of each column, and no other byte is an output byte. -/
theorem encodeWritesParity : Obligations.EncodeWritesParity := by
  unfold Obligations.EncodeWritesParity
  intro s hs hready hapart
  obtain ⟨⟨hk, -⟩, -⟩ := hs.codec_of_ready hready
  have hmap := mapsColumns_encode hk hapart hready s.core.strat hs.mem
  refine ⟨_, exec_encode_of_ready hready, fun j hkj hj p hp => ?_, fun a ha => ?_⟩
  · rw [← column_of_lt _ _ hj, hmap.inside p (Nat.zero_le p) (by omega), encodeColumn,
      recode_of_mem (mem_parityIndices.mpr ⟨hkj, hj⟩), weightedSum_column_data]
  · refine runCode_windowCall_read_of_ne (lo := 0) (len := s.count) _ _ fun j hj p hp => ?_
    obtain ⟨hkj, hj⟩ := mem_parityIndices.mp hj
    rw [Nat.zero_add]
    exact ha j hkj hj p hp

/-! ### VERIFY after ENCODE (R216) -/

/-- An encoded column's parity entries are the sums of its data entries, which ENCODE keeps. -/
theorem weightedSum_encodeColumn {s : State} (x : Nat → Byte) (j : Nat) :
    weightedSum s.core.em (List.range s.dataCount) (encodeColumn s x) j =
      weightedSum s.core.em (List.range s.dataCount) x j :=
  weightedSum_congr fun _ hi => recode_of_not_mem fun hparity =>
    absurd (mem_parityIndices.mp hparity).1 (Nat.not_le.mpr (List.mem_range.mp hi))

theorem parityColumn_encodeColumn {s : State} (x : Nat → Byte) : ParityColumn s (encodeColumn s x) := fun j hkj hj => by
  rw [weightedSum_encodeColumn, encodeColumn, recode_of_mem (mem_parityIndices.mpr ⟨hkj, hj⟩)]

/-- Two right columns that differ in one parity entry at most are equal there. -/
theorem ParityColumn.eq_of_update {s : State} {x : Nat → Byte} (hx : ParityColumn s x) {j : Nat} (hkj : s.dataCount ≤ j)
    (hj : j < s.shardCount) {b : Byte} (hb : ParityColumn s (Function.update x j b)) : b = x j := by
  have hdata : ∀ i ∈ List.range s.dataCount, Function.update x j b i = x i := fun i hi =>
    Function.update_of_ne ((List.mem_range.mp hi).trans_le hkj).ne _ _
  have hsum := hb j hkj hj
  rwa [Function.update_self, weightedSum_congr hdata, ← hx j hkj hj] at hsum

/-- A byte written into a parity window changes one entry of its column. -/
theorem column_write {s : State} (hapart : overlapFree .encode s = true) {m : Memory} (hm : m.wf) {j p : Nat}
    (hkj : s.dataCount ≤ j) (hj : j < s.shardCount) (hp : p < s.count) (b : Byte) :
    column s (m.write (s.shBase j + s.offset + p) b) p = Function.update (column s m p) j b := by
  funext i
  by_cases hij : i = j
  · subst hij
    rw [column_of_lt _ _ hj, Memory.read_write_same hm, Function.update_self]
  · rw [Function.update_of_ne hij]
    unfold column
    split
    next hi =>
      have hdis := overlapFree_encode_iff.mp hapart j (mem_parityIndices.mpr ⟨hkj, hj⟩) i hi hij
      exact Memory.read_write_of_ne _ _ (windowAddr_ne hdis hp hp)
    · rfl

/-- Settles O36: encoded columns are right, and in a right column no one parity entry can be changed. -/
theorem parityCorruptionIsDetected : Obligations.ParityCorruptionIsDetected := by
  unfold Obligations.ParityCorruptionIsDetected
  intro s t hs hready hapart hexec
  obtain ⟨⟨hk, -⟩, -⟩ := hs.codec_of_ready hready
  have hmap := mapsColumns_encode hk hapart hready s.core.strat hs.mem
  rw [exec_encode_of_ready hready] at hexec
  obtain rfl := Host.Outcome.next.inj hexec
  have hright : ∀ p < s.count, ParityColumn s (column s (runCode s.core.strat (parityCall s) s.mem) p) := fun p hp => by
    rw [hmap.inside p (Nat.zero_le p) (by omega)]
    exact parityColumn_encodeColumn _
  refine ⟨exec_verify_of_iff ?_ (iff_of_true rfl hright), ?_⟩
  · exact hready
  rintro j hkj hj p hp b hb t' rfl
  refine exec_verify_of_iff ?_ (iff_of_false Bool.false_ne_true fun hwrong => hb ?_)
  · exact hready
  rw [← column_of_lt _ p hj]
  refine (hright p hp).eq_of_update hkj hj ?_
  rw [← column_write hapart hmap.wf hkj hj hp]
  exact hwrong p hp

/-! ### Windows in two parts (R218) -/

/-- A call over the second part is one over the last bytes of the whole window. -/
theorem windowCall_secondPart {s : State} {c₁ c₂ : Word} (hready : CodecReady s) (hsum : c₁.toNat + c₂.toNat = s.core.cnt.toNat)
    (A : Matrix) (is os : List Nat) :
    windowCall { s with core.off := s.core.off + c₁, core.cnt := c₂ } A is os 0 c₂.toNat =
      windowCall s A is os c₁.toNat c₂.toNat := by
  simp only [windowCall]
  congr 1
  exact toNat_off_add hready hsum

theorem mem_of_exec_encode {s t : State} (hready : CodecReady s) (h : exec .encode s = .next t) :
    t.mem = runCode s.core.strat (parityCall s) s.mem := by
  rw [exec_encode_of_ready hready] at h
  rw [← Host.Outcome.next.inj h]

/-- Settles O38: the two parts map the columns that the whole window maps. -/
theorem encodeWindowsAreIndependent : Obligations.EncodeWindowsAreIndependent := by
  unfold Obligations.EncodeWindowsAreIndependent
  intro s t t₁ t₂ c₁ c₂ hs hready hapart hsum hexec hexec₁ hexec₂
  have hcount : c₁.toNat + c₂.toNat = s.count := hsum
  obtain ⟨⟨hk, -⟩, -⟩ := hs.codec_of_ready hready
  have hstep := codingStep_encode hk hapart
  rw [exec_encode_of_ready (hready.firstPart hsum)] at hexec₁
  obtain rfl := Host.Outcome.next.inj hexec₁
  have hfirst := mapsColumns_runCode (A := s.core.em) hstep hready (lo := 0) (len := c₁.toNat) (by omega) s.core.strat hs.mem
  have hsecond := mapsColumns_runCode (A := s.core.em) hstep hready hcount.le s.core.strat hfirst.wf
  rw [mem_of_exec_encode hready hexec, mem_of_exec_encode (by exact hready.secondPart hsum) hexec₂]
  refine (hfirst.append ?_ hcount).unique (mapsColumns_encode hk hapart hready _ hs.mem)
  rw [← windowCall_secondPart hready hsum] at hsecond
  exact hsecond

end Sys2Proof.Machine
end

section
/-! SUPPORT and the proofs of O34, O35 and O58. DECODE (R213 to R215): its ends, and its two runs as one map of columns. -/

namespace Sys2Proof.Machine

/-! ### Which shards -/

section
variable {s : State} {i : Nat}

theorem mem_presentShards : i ∈ presentShards s ↔ i < s.shardCount ∧ (s.shardAt i).present = true := by
  simp [presentShards]

theorem mem_missingData : i ∈ missingData s ↔ i < s.dataCount ∧ (s.shardAt i).present = false := by
  simp [missingData]

theorem mem_missingParity :
    i ∈ missingParity s ↔ (s.dataCount ≤ i ∧ i < s.shardCount) ∧ (s.shardAt i).present = false := by
  simp [missingParity, mem_parityIndices]

theorem mem_presentShards_of_chosen (h : i ∈ chosenShards s) : i ∈ presentShards s := List.mem_of_mem_take h

theorem chosenShards_lt (h : i ∈ chosenShards s) : i < s.shardCount :=
  (mem_presentShards.mp (mem_presentShards_of_chosen h)).1

theorem present_of_chosen (h : i ∈ chosenShards s) : (s.shardAt i).present = true :=
  (mem_presentShards.mp (mem_presentShards_of_chosen h)).2

theorem nodup_chosenShards (s : State) : (chosenShards s).Nodup :=
  (List.nodup_range.filter _).sublist (List.take_sublist _ _)

theorem length_chosenShards (henough : s.dataCount ≤ (presentShards s).length) : (chosenShards s).length = s.dataCount :=
  List.length_take_of_le henough

/-- The place of a chosen shard is its place among the present ones. -/
theorem chosenShards_getD (hi : i < s.dataCount) : (chosenShards s).getD i 0 = (presentShards s).getD i 0 := by
  rw [chosenShards, List.getD_eq_getElem?_getD, List.getElem?_take_of_lt hi, ← List.getD_eq_getElem?_getD]

theorem present_of_all_present (hall : (presentShards s).length = s.shardCount) (hi : i < s.shardCount) :
    (s.shardAt i).present = true := by
  have hfilter : (presentShards s).length = (List.range s.shardCount).length := by rw [hall, List.length_range]
  exact List.length_filter_eq_length_iff.mp hfilter i (List.mem_range.mpr hi)

end

/-! ### The ends (R213, R215) -/

/-- A run without outputs performs no iteration. -/
theorem runCode_of_no_outs (u : Fin 12) {c : CodeCall} (mem : Memory) (h : c.outs.length = 0) : runCode u c mem = mem := by
  have : schedule (unitOrder u) c.ins.length c.outs.length c.cnt = [] := by
    rw [List.eq_nil_iff_forall_not_mem]
    intro st hst
    obtain ⟨o, p, ho, -, -⟩ := schedule_range hst
    omega
  rw [runCode, this]
  rfl

/-- The two runs of DECODE over `len` bytes from byte `lo` of the window on. -/
def decodeWindow (s : State) (D : Matrix) (lo len : Nat) (mem : Memory) : Memory :=
  runCode s.core.strat (windowCall s s.core.em (List.range s.dataCount) (missingParity s) lo len)
    (runCode s.core.strat (windowCall s D (chosenShards s) (missingData s) lo len) mem)

/-- Skipping a call without outputs makes no difference. -/
theorem decodeMemory_eq (s : State) (D : Matrix) : decodeMemory s D = decodeWindow s D 0 s.count s.mem := by
  have hskip : ∀ (c : CodeCall) (is : List Nat) (mem : Memory), c.outs = is.map s.shBase →
      (if is.isEmpty then mem else runCode s.core.strat c mem) = runCode s.core.strat c mem := by
    intro c is mem hc
    split
    next hempty => rw [runCode_of_no_outs _ _ (by simpa [hc] using hempty)]
    · rfl
  show (if (missingParity s).isEmpty then _ else runCode s.core.strat (missingParityCall s) _) = _
  rw [hskip (missingParityCall s) _ _ rfl, hskip (dataCall s D) _ _ rfl]
  rfl

section
variable {s : State} (hready : CodecReady s)
include hready

theorem exec_decode_of_few (hfew : (presentShards s).length < s.dataCount) :
    exec .decode s = .next { s with core.status.err := 3 } := by
  rw [exec_decode, execDecode, codecCheck_of_ready hready]
  exact if_pos hfew

theorem exec_decode_of_all_present (henough : s.dataCount ≤ (presentShards s).length)
    (hall : (presentShards s).length = s.shardCount) : exec .decode s = .next { s with core.status.err := 0 } := by
  rw [exec_decode, execDecode, codecCheck_of_ready hready]
  exact (if_neg (Nat.not_lt.mpr henough)).trans (if_pos hall)

/-- With nothing missing the two runs have no outputs, so this is R213's end in that case too. -/
theorem exec_decode_of_decodeMatrix (henough : s.dataCount ≤ (presentShards s).length) {D : Matrix}
    (hD : decodeMatrix s = .ok D) :
    exec .decode s = .next { s with mem := decodeMemory s D, core.status.err := 0 } := by
  by_cases hall : (presentShards s).length = s.shardCount
  · have hdata : missingData s = [] := List.eq_nil_iff_forall_not_mem.mpr fun i hi => by
      obtain ⟨hi, hmiss⟩ := mem_missingData.mp hi
      simp [present_of_all_present hall (hi.trans_le (dataCount_le_shardCount s))] at hmiss
    have hparity : missingParity s = [] := List.eq_nil_iff_forall_not_mem.mpr fun i hi => by
      obtain ⟨⟨-, hi⟩, hmiss⟩ := mem_missingParity.mp hi
      simp [present_of_all_present hall hi] at hmiss
    have hmem : decodeMemory s D = s.mem := by
      rw [decodeMemory, hdata, hparity]
      rfl
    rw [exec_decode_of_all_present hready henough hall, hmem]
  · rw [exec_decode, execDecode, codecCheck_of_ready hready]
    dsimp only
    rw [if_neg (Nat.not_lt.mpr henough), if_neg hall, hD]
    rfl

/-- R215: the chosen rows of `em` are distinct, so they have an inverse (R193). -/
theorem exists_decodeMatrix {K : Type} [Field K] {φ : Byte → K} (hφ : FieldCode φ) (hs : Inv s)
    (henough : s.dataCount ≤ (presentShards s).length) :
    ∃ D, decodeMatrix s = .ok D ∧
      codeRows φ s.dataCount s.core.em (chosenShards s) * codeMatrix φ s.dataCount s.dataCount D = 1 := by
  obtain ⟨⟨-, hn⟩, hem⟩ := hs.codec_of_ready hready
  obtain ⟨T, hbuilt⟩ := hs.builtFrom_of_ready hφ hready
  obtain ⟨f, hf⟩ := eq_matOf_of_buildEm_ok hem
  have hlen := length_chosenShards henough
  have hlt : ∀ i ∈ chosenShards s, i < s.shardCount := fun _ => chosenShards_lt
  obtain ⟨S, hS, hrows, hcols, hcode⟩ := exists_matSub φ (congrArg Matrix.cols hf) hlen
    fun i hi => (hlt i hi).trans_eq (congrArg Matrix.rows hf).symm
  obtain ⟨g, hinv, hmul⟩ := exists_matInv_of_det_ne_zero hφ hrows hcols
    (hcode ▸ hbuilt.det_codeRows_ne_zero hφ hn hlen (nodup_chosenShards s) hlt)
  refine ⟨_, ?_, hcode ▸ hmul⟩
  rw [decodeMatrix, hS]
  exact hinv

end

/-- Settles O35: the inverse exists, and the completing end writes memory and `ERR` alone. -/
theorem decodeCompletesWithEnoughShards : Obligations.DecodeCompletesWithEnoughShards := by
  unfold Obligations.DecodeCompletesWithEnoughShards
  intro s hs hready henough
  obtain ⟨K, _, φ, hφ⟩ := exists_fieldCode
  obtain ⟨D, hD, -⟩ := exists_decodeMatrix hready hφ hs henough
  exact ⟨_, exec_decode_of_decodeMatrix hready henough hD⟩

/-! ### DECODE on columns -/

/-- DECODE on a column: the missing data entries from the chosen ones, then the missing parity entries from all data entries. -/
def decodeColumn (s : State) (D : Matrix) : (Nat → Byte) → Nat → Byte :=
  recode s.core.em (List.range s.dataCount) (missingParity s) ∘ recode D (chosenShards s) (missingData s)

theorem overlapFree_decode_iff {s : State} :
    overlapFree .decode s = true ↔ ∀ j < s.shardCount, ∀ i < s.shardCount, i ≠ j → shardsApart s j i = true := by
  simp [overlapFree, or_iff_not_imp_left]

section
variable {s : State} (hk : 1 ≤ s.dataCount) (henough : s.dataCount ≤ (presentShards s).length)
  (hapart : overlapFree .decode s = true)
include hk henough hapart

theorem codingStep_missingData : CodingStep s (chosenShards s) (missingData s) where
  nonempty := (length_chosenShards henough).symm ▸ hk
  ins_lt _ := chosenShards_lt
  outs_lt j hj := (mem_missingData.mp hj).1.trans_le (dataCount_le_shardCount s)
  disjoint j hj hchosen := by
    have hmiss := (mem_missingData.mp hj).2
    simp [present_of_chosen hchosen] at hmiss
  nodup := List.nodup_range.filter _
  apart j hj := overlapFree_decode_iff.mp hapart j ((mem_missingData.mp hj).1.trans_le (dataCount_le_shardCount s))

omit henough in
theorem codingStep_missingParity : CodingStep s (List.range s.dataCount) (missingParity s) where
  nonempty := by simpa using hk
  ins_lt _ := mem_range_data_lt
  outs_lt j hj := (mem_missingParity.mp hj).1.2
  disjoint j hj hdata := absurd (mem_missingParity.mp hj).1.1 (Nat.not_le.mpr (List.mem_range.mp hdata))
  nodup := (List.nodup_range.sublist (List.drop_sublist _ _)).filter _
  apart j hj := overlapFree_decode_iff.mp hapart j (mem_missingParity.mp hj).1.2

theorem mapsColumns_decodeWindow (hready : CodecReady s) (D : Matrix) {lo len : Nat} (hlen : lo + len ≤ s.count) {m : Memory}
    (hm : m.wf) : MapsColumns s lo len (decodeColumn s D) m (decodeWindow s D lo len m) :=
  have hdata := mapsColumns_runCode (codingStep_missingData hk henough hapart) hready hlen s.core.strat hm
  hdata.comp (mapsColumns_runCode (codingStep_missingParity hk hapart) hready hlen s.core.strat hdata.wf)

end

section
variable {s : State} {D : Matrix} {x : Nat → Byte} {i j : Nat}

theorem decodeColumn_missingParity (h : j ∈ missingParity s) : decodeColumn s D x j =
    weightedSum s.core.em (List.range s.dataCount) (recode D (chosenShards s) (missingData s) x) j := recode_of_mem h

theorem decodeColumn_data (h : i < s.dataCount) :
    decodeColumn s D x i = recode D (chosenShards s) (missingData s) x i :=
  recode_of_not_mem fun hparity => absurd (mem_missingParity.mp hparity).1.1 (Nat.not_le.mpr h)

theorem decodeColumn_present (h : (s.shardAt i).present = true) : decodeColumn s D x i = x i := by
  rw [decodeColumn, Function.comp_apply, recode_of_not_mem, recode_of_not_mem] <;>
    simp [mem_missingParity, mem_missingData, h]

/-- The sum over the chosen shards, as R213 writes it. -/
theorem weightedSum_column_chosen (henough : s.dataCount ≤ (presentShards s).length) (mem : Memory) (q j : Nat) :
    weightedSum D (chosenShards s) (column s mem q) j = xorSum s.dataCount fun c =>
      gfMul (matAt D j c) (mem.read (s.shBase ((presentShards s).getD c 0) + s.offset + q)) := by
  rw [weightedSum, length_chosenShards henough]
  refine xorSum_congr fun c hc => ?_
  rw [column_of_lt _ _ (getD_lt_of_forall_mem_lt (fun _ => chosenShards_lt) ((length_chosenShards henough).symm ▸ hc)),
    chosenShards_getD hc]

end

/-- Settles O34: R213's two counts, then the two kinds of entries that DECODE writes in each column. -/
theorem decodeRebuildsMissingShards : Obligations.DecodeRebuildsMissingShards := by
  unfold Obligations.DecodeRebuildsMissingShards
  intro s hs hready
  refine ⟨exec_decode_of_few hready, exec_decode_of_all_present hready, fun henough _ hapart S D hS hD => ?_⟩
  have hmatrix : decodeMatrix s = .ok D := by
    rw [decodeMatrix, chosenShards, hS]
    exact hD
  obtain ⟨⟨hk, -⟩, -⟩ := hs.codec_of_ready hready
  have hmap := mapsColumns_decodeWindow hk henough hapart hready D (Nat.zero_add s.count).le hs.mem
  have hcolumn : ∀ p < s.count, column s (decodeMemory s D) p = decodeColumn s D (column s s.mem p) := fun p hp => by
    rw [decodeMemory_eq, hmap.inside p (Nat.zero_le p) (by omega)]
  refine ⟨_, exec_decode_of_decodeMatrix hready henough hmatrix, fun d hd hmiss p hp => ?_, fun j hkj hj hmiss p hp => ?_,
    fun a ha => ?_⟩
  · rw [← column_of_lt _ _ (hd.trans_le (dataCount_le_shardCount s)), hcolumn p hp, decodeColumn_data hd,
      recode_of_mem (mem_missingData.mpr ⟨hd, hmiss⟩), weightedSum_column_chosen henough]
  · rw [← weightedSum_column_data, ← column_of_lt _ _ hj, hcolumn p hp,
      decodeColumn_missingParity (mem_missingParity.mpr ⟨⟨hkj, hj⟩, hmiss⟩)]
    exact weightedSum_congr fun i hi => (decodeColumn_data (List.mem_range.mp hi)).symm
  · rw [decodeMemory_eq]
    have hother : ∀ js : List Nat, (∀ j ∈ js, j < s.shardCount ∧ (s.shardAt j).present = false) →
        ∀ j ∈ js, ∀ p < s.count, a ≠ s.shBase j + s.offset + (0 + p) := fun js hjs j hj p hp => by
      rw [Nat.zero_add]
      exact ha j (hjs j hj).1 (hjs j hj).2 p hp
    rw [decodeWindow, runCode_windowCall_read_of_ne, runCode_windowCall_read_of_ne]
    · exact hother _ fun j hj => ⟨(mem_missingData.mp hj).1.trans_le (dataCount_le_shardCount s), (mem_missingData.mp hj).2⟩
    · exact hother _ fun j hj => ⟨(mem_missingParity.mp hj).1.2, (mem_missingParity.mp hj).2⟩

/-! ### Windows in two parts (R218) -/

theorem decodeWindow_secondPart {s : State} {c₁ c₂ : Word} (hready : CodecReady s)
    (hsum : c₁.toNat + c₂.toNat = s.core.cnt.toNat) (D : Matrix) (m : Memory) :
    decodeWindow { s with core.off := s.core.off + c₁, core.cnt := c₂ } D 0 c₂.toNat m =
      decodeWindow s D c₁.toNat c₂.toNat m := by
  rw [decodeWindow, windowCall_secondPart hready hsum, windowCall_secondPart hready hsum]
  rfl

theorem mem_of_exec_decode_few {s t : State} (hready : CodecReady s) (hfew : (presentShards s).length < s.dataCount)
    (h : exec .decode s = .next t) : t.mem = s.mem := by
  rw [exec_decode_of_few hready hfew] at h
  rw [← Host.Outcome.next.inj h]

theorem mem_of_exec_decode {s t : State} (hready : CodecReady s) (henough : s.dataCount ≤ (presentShards s).length) {D : Matrix}
    (hD : decodeMatrix s = .ok D) (h : exec .decode s = .next t) : t.mem = decodeWindow s D 0 s.count s.mem := by
  rw [exec_decode_of_decodeMatrix hready henough hD, decodeMemory_eq] at h
  rw [← Host.Outcome.next.inj h]

/-- Settles O58: the two parts map the columns that the whole window maps, by one and the same inverse. -/
theorem decodeWindowsAreIndependent : Obligations.DecodeWindowsAreIndependent := by
  unfold Obligations.DecodeWindowsAreIndependent
  intro s t t₁ t₂ c₁ c₂ hs hready hapart hsum hexec hexec₁ hexec₂
  obtain hfew | henough := Nat.lt_or_ge (presentShards s).length s.dataCount
  · rw [exec_decode_of_few (hready.firstPart hsum) hfew] at hexec₁
    obtain rfl := Host.Outcome.next.inj hexec₁
    rw [mem_of_exec_decode_few hready hfew hexec, mem_of_exec_decode_few (by exact hready.secondPart hsum) (by exact hfew) hexec₂]
  · obtain ⟨K, _, φ, hφ⟩ := exists_fieldCode
    obtain ⟨D, hD, -⟩ := exists_decodeMatrix hready hφ hs henough
    rw [exec_decode_of_decodeMatrix (hready.firstPart hsum) henough hD, decodeMemory_eq] at hexec₁
    obtain rfl := Host.Outcome.next.inj hexec₁
    have hcount : c₁.toNat + c₂.toNat = s.count := hsum
    obtain ⟨⟨hk, -⟩, -⟩ := hs.codec_of_ready hready
    have hfirst := mapsColumns_decodeWindow hk henough hapart hready D (lo := 0) (len := c₁.toNat) (by omega) hs.mem
    have hsecond := mapsColumns_decodeWindow hk henough hapart hready D hcount.le hfirst.wf
    rw [mem_of_exec_decode hready henough hD hexec,
      mem_of_exec_decode (by exact hready.secondPart hsum) (by exact henough) (by exact hD) hexec₂]
    refine (hfirst.append ?_ hcount).unique
      (mapsColumns_decodeWindow hk henough hapart hready D (Nat.zero_add s.count).le hs.mem)
    rw [← decodeWindow_secondPart hready hsum] at hsecond
    exact hsecond

end Sys2Proof.Machine
end

section
/-! SUPPORT and the proof of O37. The columns that ENCODE leaves are the codewords of `em`: every entry is its row's sum of the
data entries. DECODE completes any `K` entries of a codeword to all of it (R217). -/

namespace Sys2Proof.Machine

/-! ### Weighted sums over the field -/

/-- The entries of a column at the places of a list, read as field elements. -/
def codeEntries {K : Type} (φ : Byte → K) (n : Nat) (L : List Nat) (x : Nat → Byte) : Fin n → K := fun i => φ (x (L.getD i 0))

/-- All rows of a square matrix, in order. -/
theorem codeRows_range {K : Type} (φ : Byte → K) (n : Nat) (A : Matrix) : codeRows φ n A (List.range n) = codeMatrix φ n n A := by
  ext j c
  simp [codeRows, codeMatrix]

section
variable {K : Type} [Field K] {φ : Byte → K} (hφ : FieldCode φ) {n : Nat}
include hφ

/-- Sums by the listed rows of a matrix are its product with the entries summed. -/
theorem codeEntries_weightedSum (A : Matrix) (L : List Nat) {is : List Nat} (hlen : is.length = n) (x : Nat → Byte) :
    codeEntries φ n L (weightedSum A is x) = (codeRows φ n A L).mulVec (codeEntries φ n is x) := by
  subst hlen
  funext j
  rw [codeEntries, weightedSum, hφ.xorSum]
  simp only [hφ.mul]
  rfl

theorem eq_of_codeEntries_range {x y : Nat → Byte} (h : codeEntries φ n (List.range n) x = codeEntries φ n (List.range n) y)
    {i : Nat} (hi : i < n) : x i = y i := by
  have hcode := congrFun h ⟨i, hi⟩
  have hrange : (List.range n).getD i 0 = i := by simp [hi]
  simp only [codeEntries, hrange] at hcode
  exact hφ.injective hcode

end

/-! ### Codewords (R192, R211) -/

/-- Every entry of the column is the sum of the data entries by its row of `em`. -/
def Codeword (s : State) (y : Nat → Byte) : Prop :=
  ∀ j < s.shardCount, y j = weightedSum s.core.em (List.range s.dataCount) y j

section
variable {s : State} {y : Nat → Byte}

/-- The data rows of `em` are those of the identity (R192), so for the data entries nothing is to be checked. -/
theorem codeword_of_parityColumn (hs : Inv s) (hready : CodecReady s) (hy : ParityColumn s y) : Codeword s y := by
  obtain ⟨K, _, φ, hφ⟩ := exists_fieldCode
  obtain ⟨T, hbuilt⟩ := hs.builtFrom_of_ready hφ hready
  intro j hj
  obtain hdata | hparity := Nat.lt_or_ge j s.dataCount
  · refine eq_of_codeEntries_range hφ ?_ hdata
    rw [codeEntries_weightedSum hφ _ _ List.length_range]
    exact (hbuilt.codeRows_top ▸ Matrix.one_mulVec _).symm
  · exact hy j hparity hj

/-- The inverse of the chosen rows gives the data entries of a codeword from the chosen ones (R213). -/
theorem Codeword.weightedSum_chosen {K : Type} [Field K] {φ : Byte → K} (hφ : FieldCode φ) (hy : Codeword s y)
    (henough : s.dataCount ≤ (presentShards s).length) {D : Matrix}
    (hD : codeRows φ s.dataCount s.core.em (chosenShards s) * codeMatrix φ s.dataCount s.dataCount D = 1)
    {d : Nat} (hd : d < s.dataCount) : weightedSum D (chosenShards s) y d = y d := by
  have hlen := length_chosenShards henough
  have hchosen : codeEntries φ s.dataCount (chosenShards s) y =
      (codeRows φ s.dataCount s.core.em (chosenShards s)).mulVec (codeEntries φ s.dataCount (List.range s.dataCount) y) := by
    rw [← codeEntries_weightedSum hφ _ _ List.length_range]
    funext i
    exact congrArg φ (hy _ (getD_lt_of_forall_mem_lt (fun _ => chosenShards_lt) (hlen.symm ▸ i.isLt)))
  refine eq_of_codeEntries_range hφ ?_ hd
  rw [codeEntries_weightedSum hφ _ _ hlen, codeRows_range, hchosen, Matrix.mulVec_mulVec, mul_eq_one_comm.mp hD,
    Matrix.one_mulVec]

/-- DECODE makes the codeword of a column whose present entries are a codeword's. -/
theorem Codeword.decodeColumn {K : Type} [Field K] {φ : Byte → K} (hφ : FieldCode φ) (hy : Codeword s y)
    (henough : s.dataCount ≤ (presentShards s).length) {D : Matrix}
    (hD : codeRows φ s.dataCount s.core.em (chosenShards s) * codeMatrix φ s.dataCount s.dataCount D = 1) {z : Nat → Byte}
    (hz : ∀ i < s.shardCount, (s.shardAt i).present = true → z i = y i) {i : Nat} (hi : i < s.shardCount) :
    decodeColumn s D z i = y i := by
  have hdata : ∀ d < s.dataCount, recode D (chosenShards s) (missingData s) z d = y d := fun d hd => by
    cases hmiss : (s.shardAt d).present with
    | true =>
      rw [recode_of_not_mem (by simp [mem_missingData, hmiss]), hz d (hd.trans_le (dataCount_le_shardCount s)) hmiss]
    | false =>
      rw [recode_of_mem (mem_missingData.mpr ⟨hd, hmiss⟩),
        weightedSum_congr fun c hc => hz c (chosenShards_lt hc) (present_of_chosen hc), hy.weightedSum_chosen hφ henough hD hd]
  cases hmiss : (s.shardAt i).present with
  | true => rw [decodeColumn_present hmiss, hz i hi hmiss]
  | false =>
    obtain hd | hparity := Nat.lt_or_ge i s.dataCount
    · rw [decodeColumn_data hd, hdata i hd]
    · rw [decodeColumn_missingParity (mem_missingParity.mpr ⟨⟨hparity, hi⟩, hmiss⟩),
        weightedSum_congr fun d hd => hdata d (List.mem_range.mp hd), ← hy i hi]

end

/-! ### The round trip (R217) -/

theorem overlapFree_encode_of_decode {s : State} (h : overlapFree .decode s = true) : overlapFree .encode s = true :=
  overlapFree_encode_iff.mpr fun j hj => overlapFree_decode_iff.mp h j (mem_parityIndices_lt hj)

/-- The later state has the same codec, window and buffers. -/
structure SameBuffers (s u : State) : Prop where
  cfg : u.core.cfg = s.core.cfg
  em : u.core.em = s.core.em
  off : u.core.off = s.core.off
  cnt : u.core.cnt = s.core.cnt
  shards : ∀ i < s.shardCount, u.shBase i = s.shBase i ∧ u.shLen i = s.shLen i

section
variable {s u : State} (h : SameBuffers s u)
include h

theorem SameBuffers.shardCount : u.shardCount = s.shardCount := by
  rw [State.shardCount, State.shardCount, h.cfg]

theorem SameBuffers.dataCount : u.dataCount = s.dataCount := by
  rw [State.dataCount, State.dataCount, h.cfg]

theorem SameBuffers.count : u.count = s.count := by
  rw [State.count, State.count, h.cnt]

theorem SameBuffers.offset : u.offset = s.offset := by
  rw [State.offset, State.offset, h.off]

theorem SameBuffers.column (mem : Memory) (q : Nat) : column u mem q = column s mem q :=
  column_congr h.shardCount fun i hi => by rw [(h.shards i hi).1, h.offset]

theorem SameBuffers.codecReady (hk : 1 ≤ s.dataCount) (hready : CodecReady s) : CodecReady u := by
  obtain ⟨hvalid, hlen, hwindow, hspace⟩ := hready
  have hzero : u.shLen 0 = s.shLen 0 := (h.shards 0 (hk.trans (dataCount_le_shardCount s))).2
  unfold CodecReady
  rw [h.cfg, h.shardCount, h.offset, h.count, hzero]
  exact ⟨hvalid, fun i hi => (h.shards i hi).2.trans (hlen i hi), hwindow, fun i hi => (h.shards i hi).1 ▸ hspace i hi⟩

theorem SameBuffers.overlapFree_decode (hapart : overlapFree .decode s = true) : overlapFree .decode u = true := by
  rw [overlapFree_decode_iff] at *
  intro j hj i hi hij
  rw [h.shardCount] at hi hj
  rw [shardsApart, (h.shards i hi).1, (h.shards j hj).1, h.count]
  exact hapart j hj i hi hij

theorem SameBuffers.codeword {y : Nat → Byte} (hy : Codeword s y) : Codeword u y := by
  unfold Codeword
  rw [h.shardCount, h.em, h.dataCount]
  exact hy

end

/-- Settles O37: ENCODE leaves codewords, and DECODE completes their present entries. -/
theorem decodeRestoresEncodedShards : Obligations.DecodeRestoresEncodedShards := by
  unfold Obligations.DecodeRestoresEncodedShards
  intro s t u hs hready hapart hexec hu hcfg hem hoff hcnt hshards henough hsame
  have hsu : SameBuffers s u := ⟨hcfg, hem, hoff, hcnt, hshards⟩
  obtain ⟨⟨hk, -⟩, -⟩ := hs.codec_of_ready hready
  have hencode := mapsColumns_encode hk (overlapFree_encode_of_decode hapart) hready s.core.strat hs.mem
  have hreadyu := hsu.codecReady hk hready
  rw [← hsu.dataCount] at henough
  obtain ⟨K, _, φ, hφ⟩ := exists_fieldCode
  obtain ⟨D, hD, hinv⟩ := exists_decodeMatrix hreadyu hφ hu henough
  have hdecode := mapsColumns_decodeWindow (hsu.dataCount ▸ hk) henough (hsu.overlapFree_decode hapart) hreadyu D
    (Nat.zero_add u.count).le hu.mem
  refine ⟨_, exec_decode_of_decodeMatrix hreadyu henough hD, rfl, fun i hi p hp => ?_⟩
  have hword : Codeword u (column s t.mem p) := by
    rw [mem_of_exec_encode hready hexec, hencode.inside p (Nat.zero_le p) (by omega)]
    exact hsu.codeword (codeword_of_parityColumn hs hready (parityColumn_encodeColumn _))
  have hpresent : ∀ i < u.shardCount, (u.shardAt i).present = true → column u u.mem p i = column s t.mem p i := by
    intro i hi hpres
    rw [hsu.shardCount] at hi
    rw [hsu.column, column_of_lt _ _ hi, column_of_lt _ _ hi, hsame i hi hpres p hp]
  have hpu : p < 0 + u.count := by rwa [Nat.zero_add, hsu.count]
  show (decodeMemory u D).read _ = _
  rw [decodeMemory_eq, ← column_of_lt _ p hi, ← column_of_lt t.mem p hi, ← hsu.column, hdecode.inside p (Nat.zero_le p) hpu]
  exact hword.decodeColumn hφ henough hinv hpresent (hsu.shardCount.symm ▸ hi)

end Sys2Proof.Machine
end

section
/-! SUPPORT and the proofs of O39 and O41 to O44. The twelve units on one call (R257), and CODE and CHECK on the buffers that the
selectors name (R259 to R263). -/

namespace Sys2Proof.Machine

/-! ### The units agree (R257) -/

/-- In a window that is not empty, the last output byte of each buffer bounds the whole window. -/
theorem outputsInMemory_of_outAddr_lt {c : CodeCall} (hcnt : 0 < c.cnt)
    (hmem : ∀ o < c.outs.length, ∀ p < c.cnt, outAddr c o p < Config.memSize) : c.OutputsInMemory := by
  intro b hb
  obtain ⟨o, ho, rfl⟩ := List.mem_iff_getElem.mp hb
  have hlast := hmem o ho (c.cnt - 1) (by omega)
  rw [outAddr, List.getD_eq_getElem _ _ ho] at hlast
  omega

section
variable {c : CodeCall} {mem : Memory} (hm : mem.wf) (hin : 1 ≤ c.ins.length) (hno : nonOverlapping c = true)
  (hmem : ∀ o < c.outs.length, ∀ p < c.cnt, outAddr c o p < Config.memSize)
include hm hin hno hmem

/-- R257's output bytes, for a call that is known by the addresses of its output bytes. -/
theorem runCode_read_eq_coded (u : Fin 12) {o p : Nat} (ho : o < c.outs.length) (hp : p < c.cnt) :
    (runCode u c mem).read (outAddr c o p) = coded c mem o p :=
  runCode_read_outAddr hno (outputsInMemory_of_outAddr_lt (Nat.zero_lt_of_lt hp) hmem) hin u hm ho hp

/-- A byte of memory is an output byte, which every unit codes, or one that every unit leaves alone. -/
theorem runCode_eq_runCode (u u' : Fin 12) : runCode u c mem = runCode u' c mem := by
  have hwf : ∀ u : Fin 12, (runCode u c mem).wf := fun u => runCode_wf u c hm fun o p ho hp => hmem o ho p hp
  refine Memory.ext_of_read (hwf u) (hwf u') fun a => ?_
  by_cases ha : ∃ o < c.outs.length, ∃ p < c.cnt, outAddr c o p = a
  · obtain ⟨o, ho, p, hp, rfl⟩ := ha
    rw [runCode_read_eq_coded hm hin hno hmem u ho hp, runCode_read_eq_coded hm hin hno hmem u' ho hp]
  · have hne : ∀ o p, o < c.outs.length → p < c.cnt → outAddr c o p ≠ a := fun o p ho hp heq => ha ⟨o, ho, p, hp, heq⟩
    rw [runCode_read_outside u c mem hne, runCode_read_outside u' c mem hne]

end

/-- Settles O39: the output bytes are the coded bytes and the others stay, which fixes the memory whatever the unit. -/
theorem twelveUnitsAreEquivalent : Obligations.TwelveUnitsAreEquivalent := by
  unfold Obligations.TwelveUnitsAreEquivalent
  intro u c mem hm hin hno hmem
  exact ⟨fun o ho p hp => runCode_read_eq_coded hm hin hno hmem u ho hp,
    fun a ha => runCode_read_outside u c mem fun o p ho hp => (ha o ho p hp).symm,
    fun u' => runCode_eq_runCode hm hin hno hmem u' u⟩

/-! ### The checks and the ends of CODE and CHECK (R259 to R261) -/

theorem exec_code (ms : MatSrc) (nin nout : Nat) (s : State) : exec (.code ms nin nout) s = execCode ms nin nout s := rfl

theorem exec_check (ms : MatSrc) (nin nout : Nat) (s : State) : exec (.check ms nin nout) s = execCheck ms nin nout s := rfl

theorem badBuffer_eq_false {s : State} {b : Nat} : badBuffer s b = false ↔ BufferReady s b := by
  simp [badBuffer, BufferReady]

section
variable {ms : MatSrc} {nin nout : Nat} {s : State}

theorem loopCheck_eq_none_iff_ready : loopCheck ms nin nout s = none ↔ LoopReady ms nin nout s := by
  simp only [loopCheck_eq_none, badBuffer_eq_false, LoopReady]

theorem loopCheck_of_not_ready (h : ¬LoopReady ms nin nout s) : loopCheck ms nin nout s = some .dimensionMismatch := by
  obtain ⟨c, hc⟩ := Option.ne_none_iff_exists'.mp (loopCheck_eq_none_iff_ready.not.mpr h)
  rw [hc, loopCheck_eq_some hc]

theorem exec_code_of_ready (h : LoopReady ms nin nout s) :
    exec (.code ms nin nout) s = .next { s with
      mem := runCode s.core.strat (loopCall ms nin nout s) s.mem
      core.status.err := 0 } := by
  rw [exec_code, execCode, loopCheck_eq_none_iff_ready.mpr h]
  rfl

theorem exec_check_of_ready (h : LoopReady ms nin nout s) :
    exec (.check ms nin nout) s = .next { s with
      core.status.matched := runCheck s.core.strat (loopCall ms nin nout s) s.mem
      core.status.err := 0 } := by
  rw [exec_check, execCheck, loopCheck_eq_none_iff_ready.mpr h]
  rfl

end

/-- Settles O41: both commands raise what their common checks found, which can only be DimensionMismatch. -/
theorem loopCommandsShareChecks : Obligations.LoopCommandsShareChecks := by
  unfold Obligations.LoopCommandsShareChecks
  intro ms nin nout s h
  rw [exec_code, execCode, exec_check, execCheck, loopCheck_of_not_ready h]
  exact ⟨rfl, rfl⟩

/-! ### The call that R259 assembles -/

section
variable (ms : MatSrc) (nin nout : Nat) (s : State)

@[simp] theorem loopCall_ins_length : (loopCall ms nin nout s).ins.length = nin := by
  simp [loopCall, State.selIns]

@[simp] theorem loopCall_outs_length : (loopCall ms nin nout s).outs.length = nout := by
  simp [loopCall, State.selOuts]

@[simp] theorem loopCall_cnt : (loopCall ms nin nout s).cnt = s.count := rfl

variable {nin nout}

theorem inAddr_loopCall {i : Nat} (hi : i < nin) (p : Nat) :
    inAddr (loopCall ms nin nout s) i p = s.shBase (s.selAt i).inp.toNat + s.offset + p := by
  simp [inAddr, loopCall, State.selIns, hi]

theorem outAddr_loopCall {o : Nat} (ho : o < nout) (p : Nat) :
    outAddr (loopCall ms nin nout s) o p = s.shBase (s.selAt o).out.toNat + s.offset + p := by
  simp [outAddr, loopCall, State.selOuts, ho]

theorem coeff_loopCall {o : Nat} (ho : o < nout) (i : Nat) :
    coeff (loopCall ms nin nout s) o i = matAt (s.mat ms) (s.selAt o).row.toNat i := by
  simp [coeff, loopCall, State.selRows, ho]

/-- The coded byte (R240), with the selectors and descriptors written out. -/
theorem coded_loopCall (mem : Memory) {o : Nat} (ho : o < nout) (p : Nat) :
    coded (loopCall ms nin nout s) mem o p = xorSum nin fun i =>
      gfMul (matAt (s.mat ms) (s.selAt o).row.toNat i) (mem.read (s.shBase (s.selAt i).inp.toNat + s.offset + p)) := by
  rw [coded, loopCall_ins_length]
  exact xorSum_congr fun i hi => by rw [coeff_loopCall ms s ho, inAddr_loopCall ms s hi]

end

/-! ### CODE and CHECK (R260, R261) -/

/-- R93's range of `nin`: a well-formed CODE has an input. -/
theorem inputs_of_wellFormed_code {ms : MatSrc} {nin nout : Nat} (h : wellFormed (.code ms nin nout) = true) : 1 ≤ nin := by
  simp only [wellFormed, countOk, Bool.and_eq_true, decide_eq_true_eq] at h
  exact h.1.1

/-- Settles O42: the selected unit leaves the coded bytes of the assembled call, whose windows lie in the address space. -/
theorem codeWritesCodedBytes : Obligations.CodeWritesCodedBytes := by
  unfold Obligations.CodeWritesCodedBytes
  intro ms nin nout s hm hwf hready hapart
  have hmem := loopCall_inMemory (loopCheck_eq_none_iff_ready.mpr hready)
  have hin : 1 ≤ (loopCall ms nin nout s).ins.length := by simpa using inputs_of_wellFormed_code hwf
  refine ⟨_, exec_code_of_ready hready, fun o ho p hp => ?_, fun a ha => ?_⟩
  · rw [← outAddr_loopCall ms (nin := nin) s ho, ← coded_loopCall ms s s.mem ho]
    exact runCode_read_outAddr hapart hmem hin _ hm (by simpa using ho) hp
  · refine runCode_read_outside _ _ _ fun o p ho hp => ?_
    rw [loopCall_outs_length] at ho
    rw [outAddr_loopCall ms s ho]
    exact (ha o ho p hp).symm

/-- Settles O43: R258's formula on the assembled call, byte by byte. -/
theorem checkComparesCodedBytes : Obligations.CheckComparesCodedBytes := by
  unfold Obligations.CheckComparesCodedBytes
  intro ms nin nout s hready
  refine ⟨_, exec_check_of_ready hready, ?_⟩
  simp only [runCheck, List.all_eq_true, List.mem_range, beq_iff_eq, loopCall_outs_length, loopCall_cnt]
  exact forall₄_congr fun o ho p _ => by rw [coded_loopCall ms s s.mem ho, outAddr_loopCall ms s ho]

/-! ### Overlapping buffers (R263) -/

theorem runCode_loopCall (u : Fin 12) (ms : MatSrc) (nin nout : Nat) (s : State) (mem : Memory) :
    runCode u (loopCall ms nin nout s) mem =
      (schedule (unitOrder u) nin nout s.count).foldl (runStep (unitMul u) (loopCall ms nin nout s)) mem := by
  rw [runCode, loopCall_ins_length, loopCall_outs_length, loopCall_cnt]

/-- ENCODE's call has the `k` data shards as inputs and the `m` parity shards as outputs (R211). -/
theorem runCode_parityCall (u : Fin 12) (s : State) (mem : Memory) :
    runCode u (parityCall s) mem =
      (schedule (unitOrder u) s.dataCount s.core.cfg.m.toNat s.count).foldl (runStep (unitMul u) (parityCall s)) mem := by
  have hins : (parityCall s).ins.length = s.dataCount := by simp [parityCall]
  have houts : (parityCall s).outs.length = s.core.cfg.m.toNat := by
    simp [parityCall, parityIndices, State.shardCount, State.dataCount]
  rw [runCode, hins, houts]
  rfl

/-- Settles O44: the ends of the three commands whose checks pass, which ask for no disjoint windows. -/
theorem overlapRunsTheUnitLiterally : Obligations.OverlapRunsTheUnitLiterally := by
  unfold Obligations.OverlapRunsTheUnitLiterally
  refine ⟨fun mul c mem i o p => ⟨rfl, rfl, rfl⟩, fun s => ⟨fun ms nin nout hready => ?_, fun hready => ?_,
    fun hready henough _ D hD => ?_⟩⟩
  · rw [exec_code_of_ready hready, runCode_loopCall]
  · rw [exec_encode_of_ready hready, runCode_parityCall]
  · rw [exec_decode_of_decodeMatrix hready henough hD, decodeMemory_eq]
    rfl

end Sys2Proof.Machine
end

section
/-! SUPPORT and the proofs of O5, O6, O12, O46 and O47. Command words at the core (R283), and what each location of the port
takes and answers (R281, R282). -/

namespace Sys2Proof.Machine

/-- A word is the word of its number. -/
theorem word_eq_ofNat (w : Word) : w = BitVec.ofNat 32 w.toNat := by rw [BitVec.ofNat_toNat, BitVec.setWidth_eq]

/-! ### Command acceptance (R283) -/

theorem acceptCommand_of_halted {s : State} (hhalted : s.core.status.fatal = true) (w : Word) :
    acceptCommand w s = .next s := if_pos hhalted

theorem acceptCommand_of_illegal {s : State} {w : Word} {e : DecodeError} (hrun : s.core.status.fatal = false)
    (hw : decode w = .error e) : acceptCommand w s = .next (s.setErr 6) := by
  simp only [acceptCommand, hrun, hw, Bool.false_eq_true, if_false]
  rfl

theorem acceptCommand_of_legal {s : State} {w : Word} {i : Instr} (hrun : s.core.status.fatal = false)
    (hw : decode w = .ok i) : acceptCommand w s = exec i s := by
  simp only [acceptCommand, hrun, hw, Bool.false_eq_true, if_false]

/-- A command word is a host write at the offset of `CMD` (R25). -/
theorem step_write_cmd {s : State} {w : Word} {rest : List HostTxn} (h : s.host.pending = .write 0 w :: rest) :
    step s = acceptCommand w { s with host.pending := rest } := step_of_pending h

/-- Settles O5: R283's three cases of the word that the transaction presents. -/
theorem stepAcceptsCommandWord : Obligations.StepAcceptsCommandWord := by
  unfold Obligations.StepAcceptsCommandWord
  intro s w rest hpending
  rw [step_write_cmd hpending]
  exact ⟨fun hhalted => acceptCommand_of_halted (s := { s with host.pending := rest }) hhalted w, fun hrun _ hw => acceptCommand_of_illegal hrun hw,
    fun hrun _ hw => acceptCommand_of_legal hrun hw⟩

/-- Settles O6: the placed transaction presents the word itself, and taking it leaves the state that it was placed on. -/
theorem fetchWordIsRunNext : Obligations.FetchWordIsRunNext := by
  unfold Obligations.FetchWordIsRunNext
  intro s w i hrun hw
  have hword : BitVec.ofNat 32 (w.toNat % 2 ^ 32) = w := by
    rw [Nat.mod_eq_of_lt w.isLt, ← word_eq_ofNat]
  rw [step_write_cmd (s := s.withFetchWord 32 w.toNat) rfl, hword]
  exact acceptCommand_of_legal hrun hw

/-- Settles O12: NOP completes at once. -/
theorem nopClearsErrOnly : Obligations.NopClearsErrOnly := fun _ => complete_eq_next.mpr rfl

/-! ### Fields of words (R23 to R35) -/

/-- A field above the low `n` bits adds its number times `2^n`. -/
theorem ofNat_or_shiftLeft {lo n : Nat} (h : lo < 2 ^ n) (hi : Nat) :
    BitVec.ofNat 32 lo ||| BitVec.ofNat 32 hi <<< n = BitVec.ofNat 32 (lo + 2 ^ n * hi) := by
  have hshift : BitVec.ofNat 32 hi <<< n = BitVec.ofNat 32 (2 ^ n * hi) := by
    apply BitVec.eq_of_toNat_eq
    simp [Nat.shiftLeft_eq, Nat.mul_comm]
  rw [hshift, BitVec.or_comm, ← BitVec.ofNat_or, ← Nat.two_pow_add_eq_or_of_lt h, Nat.add_comm]

theorem ofBool_setWidth (b : Bool) : (BitVec.ofBool b).setWidth 32 = BitVec.ofNat 32 b.toNat := by
  rw [← BitVec.ofNat_toNat, BitVec.toNat_ofBool]

theorem statusWord_eq (t : Status) :
    statusWord t = BitVec.ofNat 32 (t.err.toNat + 8 * t.fatal.toNat + 16 * t.matched.toNat) := by
  have herr := t.err.isLt
  have hfatal := t.fatal.toNat_lt
  rw [statusWord, ofBool_setWidth, ofBool_setWidth, ← BitVec.ofNat_toNat, ofNat_or_shiftLeft herr,
    ofNat_or_shiftLeft (by omega)]
  rfl

theorem cfgWord_eq (c : Cfg) :
    cfgWord c = BitVec.ofNat 32 (c.k.toNat + 2 ^ 8 * c.m.toNat + 2 ^ 16 * c.valid.toNat) := by
  have hk := c.k.isLt
  have hm := c.m.isLt
  rw [cfgWord, ofBool_setWidth, ← BitVec.ofNat_toNat, ← BitVec.ofNat_toNat, ofNat_or_shiftLeft hk,
    ofNat_or_shiftLeft (by omega)]

theorem selWord_eq (e : SelEntry) :
    selWord e = BitVec.ofNat 32 (e.inp.toNat + 2 ^ 8 * e.out.toNat + 2 ^ 16 * e.row.toNat) := by
  have hinp := e.inp.isLt
  have hout := e.out.isLt
  rw [selWord, ← BitVec.ofNat_toNat, ← BitVec.ofNat_toNat, ← BitVec.ofNat_toNat, ofNat_or_shiftLeft hinp,
    ofNat_or_shiftLeft (by omega)]

theorem Matrix.wf.rows_le {A : Matrix} (h : A.wf) : A.rows ≤ Config.maxDim := by
  obtain ⟨hrows, -, -⟩ | ⟨-, hrows, -⟩ := h
  · exact hrows.le.trans (Nat.zero_le _)
  · exact hrows

/-- `ROWS` stays in its field of `MDIM` (R35, R37). -/
theorem mdimWord_eq {A : Matrix} (h : A.wf) : mdimWord A = BitVec.ofNat 32 (A.rows + 2 ^ 16 * A.cols) := by
  have hrows : A.rows ≤ 256 := Matrix.wf.rows_le h
  exact ofNat_or_shiftLeft (by omega) _

theorem writeStrat_legal {v : Word} {u : Fin 12} (h : v.toNat = u.val) (old : Fin 12) : writeStrat v old = u := by
  rw [writeStrat, dif_pos (h ▸ u.isLt)]
  exact Fin.ext h

theorem writeStrat_ignored {v : Word} (h : 12 ≤ v.toNat) (old : Fin 12) : writeStrat v old = old :=
  dif_neg (Nat.not_lt.mpr h)

theorem selOfWord_eq (v : Word) : selOfWord v = SelEntry.mk (BitVec.ofNat 8 v.toNat) (BitVec.ofNat 8 (v.toNat / 2 ^ 8))
    (BitVec.ofNat 8 (v.toNat / 2 ^ 16)) := by
  simp only [selOfWord, BitVec.extractLsb', Nat.shiftRight_eq_div_pow, Nat.pow_zero, Nat.div_one]

/-! ### Host writes (R281) -/

theorem hostWrite_of_ne_cmd {off : Nat} {loc : PortLoc} (hoff : portLoc off = some loc) (hcmd : loc ≠ .cmd) (v : Word)
    (s : State) : hostWrite off v s = .next { s with core := portWrite loc v s.core } := by
  unfold hostWrite
  rw [hoff]
  cases loc with
  | cmd => exact absurd rfl hcmd
  | _ => rfl

/-- Settles O46: the map gives the location, and the location's own write is the whole effect. -/
theorem hostWriteTakesEffect : Obligations.HostWriteTakesEffect := by
  unfold Obligations.HostWriteTakesEffect
  rintro s s₀ v rest run rfl hrun
  have hwrite {off : Nat} {loc : PortLoc} {c : CoreState} (hoff : portLoc off = some loc) (hcmd : loc ≠ .cmd)
      (hc : portWrite loc v s.core = c) : run off = .next { s with core := c, host.pending := rest } := by
    rw [hrun, ← hc]
    exact hostWrite_of_ne_cmd hoff hcmd v _
  refine ⟨(hrun 0x0000).trans (step_write_cmd rfl),
    fun u hu => hwrite (loc := .strat) rfl nofun (by rw [portWrite, writeStrat_legal hu]),
    fun hv => hwrite (loc := .strat) rfl nofun (by rw [portWrite, writeStrat_ignored hv]),
    hwrite (loc := .n) rfl nofun rfl,
    hwrite (loc := .off) rfl nofun rfl,
    hwrite (loc := .cnt) rfl nofun rfl,
    hwrite (loc := .maddr) rfl nofun rfl,
    fun i => hwrite (portLoc_of_portOffset (loc := .x i) rfl) nofun (by rw [portWrite, ← BitVec.ofNat_toNat]),
    fun j e he => hwrite (portLoc_of_portOffset (loc := .sel j) rfl) nofun (by rw [he, portWrite, selOfWord_eq]),
    fun i e he => hwrite (portLoc_of_portOffset (loc := .shBase i) rfl) nofun (by rw [he, portWrite, withBase]),
    fun i e he => hwrite (portLoc_of_portOffset (loc := .shLen i) rfl) nofun (by rw [he, portWrite, withLen]),
    fun i e he => hwrite (portLoc_of_portOffset (loc := .shFlag i) rfl) nofun
      (by rw [he, portWrite, withPresent, BitVec.getLsbD, Nat.testBit_zero]),
    fun off hoff => ?_⟩
  obtain rfl | rfl | ⟨i, rfl⟩ | hreserved := hoff
  · exact hwrite (loc := .status) rfl nofun rfl
  · exact hwrite (loc := .cfg) rfl nofun rfl
  · exact hwrite (portLoc_of_portOffset (loc := .mdim i) rfl) nofun rfl
  · exact hwrite hreserved nofun rfl

/-! ### Host reads (R282) -/

theorem hostRead_of_portLoc {off : Nat} {loc : PortLoc} (hoff : portLoc off = some loc) (s : State) :
    hostRead off s = .next (s.reply (portRead loc s)) := by
  unfold hostRead
  rw [hoff]

theorem mdimSource_castSucc (i : Fin 4) : mdimSource i.castSucc = .m i := dif_pos i.isLt

/-- Settles O47: the map gives the location, and the location's word is the register as a number. -/
theorem hostReadReturnsTheValue : Obligations.HostReadReturnsTheValue := by
  unfold Obligations.HostReadReturnsTheValue
  intro s rest run returns hinv hrun hreturns
  have hread {off n : Nat} {loc : PortLoc} (hoff : portLoc off = some loc)
      (hn : portRead loc { s with host.pending := rest } = BitVec.ofNat 32 n) : run off = returns n := by
    rw [hrun, hreturns, ← hn]
    exact hostRead_of_portLoc hoff _
  exact ⟨hread (loc := .cmd) rfl rfl,
    hread (loc := .status) rfl (statusWord_eq _),
    hread (loc := .strat) rfl rfl,
    hread (loc := .n) rfl (word_eq_ofNat _),
    hread (loc := .off) rfl (word_eq_ofNat _),
    hread (loc := .cnt) rfl (word_eq_ofNat _),
    hread (loc := .maddr) rfl (word_eq_ofNat _),
    hread (loc := .cfg) rfl (cfgWord_eq _),
    fun i => hread (portLoc_of_portOffset (loc := .mdim i.castSucc) rfl)
      (by rw [portRead, mdimSource_castSucc]; exact mdimWord_eq (hinv.core.matrices i)),
    hread (loc := .mdim 4) rfl (mdimWord_eq hinv.core.encoding),
    fun i => hread (portLoc_of_portOffset (loc := .x i) rfl) (BitVec.ofNat_toNat _ _).symm,
    fun j => hread (portLoc_of_portOffset (loc := .sel j) rfl) (selWord_eq _),
    fun i => hread (portLoc_of_portOffset (loc := .shBase i) rfl) (word_eq_ofNat _),
    fun i => hread (portLoc_of_portOffset (loc := .shLen i) rfl) (word_eq_ofNat _),
    fun i => hread (portLoc_of_portOffset (loc := .shFlag i) rfl) (ofBool_setWidth _),
    fun off hreserved => hread hreserved rfl⟩

end Sys2Proof.Machine
end

section
/-! SUPPORT and the proofs of O7, O50 and O55. What a transaction does to `STATUS`, and that `FATAL` is set by no command in a
state that meets the invariant (R303). -/

namespace Sys2Proof.Machine

theorem eq_of_eq_next {o : Host.Outcome State Fault Refusal} {t u : State} (hu : o = .next u) (ht : o = .next t) : t = u :=
  Host.Outcome.next.inj (ht.symm.trans hu)

/-- Settles O7: the step takes its branch for an empty list. -/
theorem idleStepHoldsState : Obligations.IdleStepHoldsState := by
  unfold Obligations.IdleStepHoldsState
  intro s hidle
  rw [step, hidle]

/-! ### Transactions and `STATUS` -/

/-- What a transaction can do to `STATUS`: it presents a command word (R283), it resets (R340), or it leaves `STATUS` alone. -/
inductive StatusEffect (s t : State) : HostTxn → Prop
  | command {off : Nat} {w : Word} (h : acceptCommand w s = .next t) : StatusEffect s t (.write off w)
  | resets (h : t = resetCore s) : StatusEffect s t .reset
  | keeps {x : HostTxn} (hx : x ≠ .reset) (h : t.core.status = s.core.status) : StatusEffect s t x

/-- `STATUS` is read-only at the port (R23, R281). -/
theorem portWrite_status (loc : PortLoc) (v : Word) (c : CoreState) : (portWrite loc v c).status = c.status := by
  cases loc <;> rfl

theorem hostWrite_statusEffect {off : Nat} {v : Word} {s t : State} (h : hostWrite off v s = .next t) :
    StatusEffect s t (.write off v) := by
  unfold hostWrite at h
  split at h
  · cases h
  · exact .command h
  next loc _ _ =>
    cases h
    exact .keeps nofun (portWrite_status loc v s.core)

theorem hostRead_statusEffect {off : Nat} {s t : State} (h : hostRead off s = .next t) : StatusEffect s t (.read off) := by
  unfold hostRead at h
  split at h
  · cases h
  · cases h
    exact .keeps nofun rfl

theorem runTxn_statusEffect {x : HostTxn} {s t : State} (h : runTxn x s = .next t) : StatusEffect s t x := by
  cases x with
  | write off v => exact hostWrite_statusEffect h
  | read off => exact hostRead_statusEffect h
  | oddAccess off bytes => cases h
  | memWrite addr b | memRead addr =>
    simp only [runTxn] at h
    split at h
    · cases h
      exact .keeps nofun rfl
    · cases h
  | reset =>
    cases h
    exact .resets rfl

/-- Settles O50: a halted core drops a command word, and apart from that only reset reaches `STATUS`. -/
theorem haltedUntilReset : Obligations.HaltedUntilReset := by
  unfold Obligations.HaltedUntilReset
  intro s t x rest hhalted hpending h
  rw [step_of_pending hpending] at h
  have hdrop {w : Word} (haccept : acceptCommand w { s with host.pending := rest } = .next t) :
      t = { s with host.pending := rest } :=
    eq_of_eq_next (acceptCommand_of_halted (s := { s with host.pending := rest }) hhalted w) haccept
  refine ⟨fun hx => ?_, fun hx => ?_, fun w hx => ?_⟩
  · cases runTxn_statusEffect h with
    | command haccept => rw [hdrop haccept]
    | resets _ => exact absurd rfl hx
    | keeps _ hstatus => exact hstatus
  · subst hx
    cases h
    rfl
  · subst hx
    exact hdrop h

/-! ### No command of a running core sets `FATAL` -/

theorem running_of_eq_next {o : Host.Outcome State Fault Refusal} {t u : State} (hu : o = .next u) (ht : o = .next t)
    (hrun : Running u) : Running t := eq_of_eq_next hu ht ▸ hrun

/-- R196: the construction succeeds for every `(k, m)` that CREATE accepts. -/
theorem running_of_exec_create {k m : Nat} {s t : State} (hrun : Running s) (h : exec (.create k m) s = .next t) :
    Running t := by
  by_cases hlegal : legalConfig k m = true
  · obtain ⟨K, _, φ, hφ⟩ := exists_fieldCode
    obtain ⟨T, E, hbuilt⟩ := exists_builtFrom hφ (legalConfig_iff.mp hlegal).2.2
    exact running_of_eq_next (execCreate_of_legal hlegal hbuilt.built) h hrun
  · exact running_of_eq_next (execCreate_of_not_legal hlegal) h hrun

/-- R215: DECODE ends in a failed check, in InsufficientShards, or with the chosen rows inverted. -/
theorem running_of_exec_decode {s t : State} (hs : Inv s) (hrun : Running s) (h : exec .decode s = .next t) : Running t := by
  cases hcheck : codecCheck s with
  | some c => exact running_of_eq_next (exec_of_codecCheck (.inr (.inr rfl)) hcheck) h hrun
  | none =>
    have hready : CodecReady s := codecCheck_eq_none.mp hcheck
    obtain hfew | henough := Nat.lt_or_ge (presentShards s).length s.dataCount
    · exact running_of_eq_next (exec_decode_of_few hready hfew) h hrun
    · obtain ⟨mem', hcompletes⟩ := decodeCompletesWithEnoughShards s hs hready henough
      exact running_of_eq_next hcompletes h hrun

/-- Only CREATE and DECODE write `FATAL` at all (R301), and under the invariant neither sets it. -/
theorem running_of_exec {i : Instr} {s t : State} (hs : Inv s) (hrun : Running s) (h : exec i s = .next t) : Running t := by
  obtain ⟨-, -, -, -, hfatal, -⟩ := stateWrittenOnlyByItsCommands i s t h
  cases i with
  | create k m => exact running_of_exec_create hrun h
  | decode => exact running_of_exec_decode hs hrun h
  | _ => exact (hfatal (by simp [instrOpcode])).trans hrun

theorem running_of_acceptCommand {w : Word} {s t : State} (hs : Inv s) (hrun : Running s)
    (h : acceptCommand w s = .next t) : Running t := by
  cases hw : decode w with
  | error e => exact running_of_eq_next (acceptCommand_of_illegal hrun hw) h hrun
  | ok i => exact running_of_exec hs hrun ((acceptCommand_of_legal hrun hw).symm.trans h)

/-- Settles O55: a command word is the only transaction that could set `FATAL`, and under the invariant no command sets it. -/
theorem coreNeverHalts : Obligations.CoreNeverHalts := by
  unfold Obligations.CoreNeverHalts
  intro s t hs hrun h
  cases hpending : s.host.pending with
  | nil => exact running_of_eq_next (idleStepHoldsState s hpending) h hrun
  | cons x rest =>
    rw [step_of_pending hpending] at h
    cases runTxn_statusEffect h with
    | command haccept =>
      have htaken : Inv { s with host.pending := rest } := ⟨hs.core, hs.mem⟩
      exact running_of_acceptCommand htaken hrun haccept
    | resets hreset =>
      rw [hreset]
      rfl
    | keeps _ hstatus => exact (congrArg Status.fatal hstatus).trans hrun

end Sys2Proof.Machine
end

section
/-! SUPPORT and the proofs of O51 and O52. What reset does to the core, and what every other transaction can do to the codec
(R340, R26, R38). -/

namespace Sys2Proof.Machine

/-! ### Reset -/

/-- Settles O51: the core becomes the reset core, whose vectors repeat one reset value. -/
theorem resetSetsEveryRegister : Obligations.ResetSetsEveryRegister := by
  unfold Obligations.ResetSetsEveryRegister
  intro s rest hpending
  have hx (i : Fin 16) : State.reset.core.x[i] = 0 := Vector.getElem_replicate i.isLt
  have hm (i : Fin 4) : State.reset.core.m[i] = {} := Vector.getElem_replicate i.isLt
  have hsel (j : Fin 256) : State.reset.core.sel[j] = {} := Vector.getElem_replicate j.isLt
  have hshard (i : Fin 256) : State.reset.core.shard[i] = {} := Vector.getElem_replicate i.isLt
  refine ⟨resetCore { s with host.pending := rest }, step_of_pending hpending, rfl, rfl, hx, fun i => ?_,
    rfl, rfl, rfl, rfl, rfl, rfl, rfl, rfl, rfl, rfl, rfl, rfl, rfl, rfl, fun j => ?_, fun i => ?_⟩
  · exact hm i ▸ ⟨rfl, rfl, rfl⟩
  · exact hsel j ▸ ⟨rfl, rfl, rfl⟩
  · exact hshard i ▸ ⟨rfl, rfl, rfl⟩

/-! ### Transactions and the codec -/

/-- What anything but reset can do to the codec: it leaves `em` and `CFG` alone, or it is a CREATE that completes and writes
both together (R194). -/
inductive CodecEffect (s t : State) : Prop
  | keeps (hem : t.core.em = s.core.em) (hcfg : t.core.cfg = s.core.cfg)
  | replaces {k m : Nat} (hlegal : legalConfig k m = true) (hE : buildEm k m = .ok t.core.em)
      (hcfg : t.core.cfg = { k := BitVec.ofNat 8 k, m := BitVec.ofNat 8 m, valid := true })

/-- The encoding matrix of a legal configuration has at least two rows (R191, R194). -/
theorem rows_ne_zero_of_buildEm {k m : Nat} {E : Matrix} (hlegal : legalConfig k m = true) (hE : buildEm k m = .ok E) :
    E.rows ≠ 0 := by
  obtain ⟨hk, -, -⟩ := counts_of_legalConfig hlegal
  obtain ⟨f, rfl⟩ := eq_matOf_of_buildEm_ok hE
  rw [matOf_rows]
  omega

theorem CodecEffect.valid {s t : State} (h : CodecEffect s t) (hvalid : s.core.cfg.valid = true) :
    t.core.cfg.valid = true := by
  cases h with
  | keeps hem hcfg => rwa [hcfg]
  | replaces hlegal hE hcfg => rw [hcfg]

theorem CodecEffect.em_rows_ne_zero {s t : State} (h : CodecEffect s t) (hrows : s.core.em.rows ≠ 0) :
    t.core.em.rows ≠ 0 := by
  cases h with
  | keeps hem hcfg => rwa [hem]
  | replaces hlegal hE hcfg => exact rows_ne_zero_of_buildEm hlegal hE

/-- Of the commands only a completing CREATE writes the codec; a raise keeps it (R195). -/
theorem CommandEffect.codecEffect {i : Instr} {s t : State} (h : CommandEffect i s (.next t)) : CodecEffect s t := by
  cases h with
  | raises c => exact .keeps (raised_em _ c s) (raised_cfg _ c s)
  | writesCodec hi k m E hlegal hE => exact .replaces hlegal hE rfl
  | writesNothing | writesX | writesM | writesMatch | writesMem => exact .keeps rfl rfl

theorem acceptCommand_codecEffect {w : Word} {s t : State} (h : acceptCommand w s = .next t) : CodecEffect s t := by
  cases hfatal : s.core.status.fatal with
  | true =>
    rw [eq_of_eq_next (acceptCommand_of_halted hfatal w) h]
    exact .keeps rfl rfl
  | false =>
    cases hw : decode w with
    | error e =>
      rw [eq_of_eq_next (acceptCommand_of_illegal hfatal hw) h]
      exact .keeps rfl rfl
    | ok i => exact (exec_next ((acceptCommand_of_legal hfatal hw).symm.trans h)).codecEffect

/-- `CFG` is read-only at the port (R26, R281). -/
theorem portWrite_cfg (loc : PortLoc) (v : Word) (c : CoreState) : (portWrite loc v c).cfg = c.cfg := by
  cases loc <;> rfl

/-- The port does not reach `em` (R38, R281). -/
theorem portWrite_em (loc : PortLoc) (v : Word) (c : CoreState) : (portWrite loc v c).em = c.em := by
  cases loc <;> rfl

theorem hostWrite_codecEffect {off : Nat} {v : Word} {s t : State} (h : hostWrite off v s = .next t) : CodecEffect s t := by
  unfold hostWrite at h
  split at h
  · cases h
  · exact acceptCommand_codecEffect h
  · cases h
    exact .keeps (portWrite_em _ v s.core) (portWrite_cfg _ v s.core)

theorem hostRead_codecEffect {off : Nat} {s t : State} (h : hostRead off s = .next t) : CodecEffect s t := by
  unfold hostRead at h
  split at h
  · cases h
  · cases h
    exact .keeps rfl rfl

theorem runTxn_codecEffect {x : HostTxn} {s t : State} (hx : x ≠ .reset) (h : runTxn x s = .next t) : CodecEffect s t := by
  cases x with
  | write off v => exact hostWrite_codecEffect h
  | read off => exact hostRead_codecEffect h
  | oddAccess off bytes => cases h
  | memWrite addr b | memRead addr =>
    simp only [runTxn] at h
    split at h
    · cases h
      exact .keeps rfl rfl
    · cases h
  | reset => exact absurd rfl hx

/-- Settles O52: apart from reset only a completing CREATE writes the codec, and it leaves a valid one. -/
theorem onlyResetDropsTheCodec : Obligations.OnlyResetDropsTheCodec := by
  unfold Obligations.OnlyResetDropsTheCodec
  intro s t x rest hpending hx h
  rw [step_of_pending hpending] at h
  have heffect := runTxn_codecEffect hx h
  exact ⟨heffect.valid, heffect.em_rows_ne_zero⟩

end Sys2Proof.Machine
end
